-- ==== Sys2Proof/Word.lean ====
section
/-! DEFINITION. The words of the block and the values on its input ports: the 64-bit data word (00_scope.md R3), the
4-bit operation field (30_encoding.md R51), the 32-bit width, position and shift-amount ports (00_scope.md R4), and one
request, the values on the five input ports at one evaluation (30_encoding.md R50). -/

namespace Sys2Proof

/-- The data word: 64 bits with no signedness of its own (00_scope.md R3). -/
abbrev Word := BitVec 64

/-- The operation-select field `op_i[3:0]` (10_state.md R26). -/
abbrev OpCode := BitVec 4

/-- A 32-bit port: `width_i` or `lsb_i`, read as a natural number (00_scope.md R4). -/
abbrev Port32 := BitVec 32

/-- A request written as one bit string of 196 bits (30_encoding.md R50). It is only a way of writing a request down. -/
abbrev PackedRequest := BitVec 196

/-- A request: the values on the five input ports at one evaluation (10_state.md R26, 30_encoding.md R50). -/
structure Request where
  /-- `op_i[3:0]`: operation select. -/
  op : OpCode
  /-- `a_i[63:0]`: the shifted, tested or stored-into word. -/
  a : Word
  /-- `b_i[63:0]`: the inserted value. -/
  b : Word
  /-- `width_i[31:0]`: the field width, or the shift amount. -/
  width : Port32
  /-- `lsb_i[31:0]`: the position of the field's least significant bit. -/
  lsb : Port32
  deriving DecidableEq, Repr

end Sys2Proof
end

