-- ==== Sys2Proof/Syntax.lean ====
section
/-! DEFINITION. The instruction set: the ten operations of 30_encoding.md R51, one constructor per row of
spec/opcode_table.json. A constructor carries exactly the operands its operation reads (R52), in the order of the
assembler syntax (R58), so an unused port cannot reach a meaning (10_state.md R29). Data operands are 64-bit patterns
(R8, D22); widths, positions and shift amounts are natural numbers (R56), which the checks compare exactly (R6, D12). -/

namespace Sys2Proof

/-- One operation with its operands. -/
inductive Instr where
  /-- SHLU n, s: shift left, unsigned domain (40_shift.md R70). -/
  | shlu (n : Word) (amount : Nat)
  /-- SHRU n, s: shift right, unsigned domain (40_shift.md R71). -/
  | shru (n : Word) (amount : Nat)
  /-- SHLS n, s: shift left, signed domain (40_shift.md R72). -/
  | shls (n : Word) (amount : Nat)
  /-- SHRS n, s: shift right, signed domain (40_shift.md R73). -/
  | shrs (n : Word) (amount : Nat)
  /-- FITSU value, width: does an unsigned value fit (41_fit.md R80). -/
  | fitsu (value : Word) (width : Nat)
  /-- FITSS value, width: does a signed value fit (41_fit.md R81). -/
  | fitss (value : Word) (width : Nat)
  /-- GETU word, width, lsb: extract an unsigned field (42_extract.md R90). -/
  | getu (word : Word) (width lsb : Nat)
  /-- GETS word, width, lsb: extract a signed field (42_extract.md R91). -/
  | gets (word : Word) (width lsb : Nat)
  /-- NEWU word, width, lsb, value: insert an unsigned value (43_insert.md R100). -/
  | newu (word : Word) (width lsb : Nat) (value : Word)
  /-- NEWS word, width, lsb, value: insert a signed value (43_insert.md R101). -/
  | news (word : Word) (width lsb : Nat) (value : Word)
  deriving DecidableEq, Repr

end Sys2Proof
end

