-- ==== Sys2Proof/Decode.lean ====
section
/-! DEFINITION. Decoding and encoding. The decoder is total on every request: the operation field alone selects the
operation (30_encoding.md R54), a reserved code is rejected by name, and operands are the values of the ports R52 lists.
The encoder is its inverse, driving unused ports with 0 (R58). `pack` and `unpack` are the 196-bit written form of a
request (R50). -/

namespace Sys2Proof

/-- What the decoder answers: an operation with its operands, or the rejection of a reserved code (30_encoding.md R54). -/
inductive Decoded where
  /-- Codes 0x0 to 0x9: the one operation the code selects. -/
  | instr (i : Instr)
  /-- Codes 0xA to 0xF: reserved, no operation is selected. -/
  | reserved (op : OpCode)
  deriving DecidableEq, Repr

/-- The operation table of 30_encoding.md R51 with the operand mapping of R52: `width_i` and `lsb_i` are read as natural
numbers with no scaling (R56), and the shifts take their amount from `width_i` (R53). -/
def decode (r : Request) : Decoded :=
  match r.op.toNat with
  | 0x0 => .instr (.shlu r.a r.width.toNat)
  | 0x1 => .instr (.shru r.a r.width.toNat)
  | 0x2 => .instr (.shls r.a r.width.toNat)
  | 0x3 => .instr (.shrs r.a r.width.toNat)
  | 0x4 => .instr (.fitsu r.a r.width.toNat)
  | 0x5 => .instr (.fitss r.a r.width.toNat)
  | 0x6 => .instr (.getu r.a r.width.toNat r.lsb.toNat)
  | 0x7 => .instr (.gets r.a r.width.toNat r.lsb.toNat)
  | 0x8 => .instr (.newu r.a r.width.toNat r.lsb.toNat r.b)
  | 0x9 => .instr (.news r.a r.width.toNat r.lsb.toNat r.b)
  | _ => .reserved r.op

/-- The request of an operation that reads ports `a` and `width` only; the unused ports carry 0 (30_encoding.md R58). -/
def requestAW (op : OpCode) (a : Word) (width : Nat) : Request :=
  { op := op, a := a, b := 0, width := BitVec.ofNat 32 width, lsb := 0 }

/-- The request of an operation on a field descriptor. -/
def requestField (op : OpCode) (a : Word) (width lsb : Nat) (b : Word) : Request :=
  { op := op, a := a, b := b, width := BitVec.ofNat 32 width, lsb := BitVec.ofNat 32 lsb }

/-- The encoder: the request of an instruction, from the same tables R51 and R52 (unused ports 0, R58). -/
def encode : Instr → Request
  | .shlu n amount => requestAW 0x0 n amount
  | .shru n amount => requestAW 0x1 n amount
  | .shls n amount => requestAW 0x2 n amount
  | .shrs n amount => requestAW 0x3 n amount
  | .fitsu value width => requestAW 0x4 value width
  | .fitss value width => requestAW 0x5 value width
  | .getu word width lsb => requestField 0x6 word width lsb 0
  | .gets word width lsb => requestField 0x7 word width lsb 0
  | .newu word width lsb value => requestField 0x8 word width lsb value
  | .news word width lsb value => requestField 0x9 word width lsb value

/-- The packed form of a request, most significant field first: op, lsb, width, b, a (30_encoding.md R50). -/
def pack (r : Request) : PackedRequest := r.op ++ r.lsb ++ r.width ++ r.b ++ r.a

/-- The request a packed form writes down (30_encoding.md R50). -/
def unpack (v : PackedRequest) : Request :=
  { op := v.extractLsb' 192 4
    lsb := v.extractLsb' 160 32
    width := v.extractLsb' 128 32
    b := v.extractLsb' 64 64
    a := v.extractLsb' 0 64 }

/-- The request whose operation field is the table word's bits 3..0 and whose other ports are 0: a row of
spec/opcode_table.json gives bits to the 4-bit op field only (its note), and a table word's bits above the field reach no
port (log entry 4). -/
def tableRequest (nbits w : Nat) : Request :=
  { op := BitVec.ofNat 4 (w % 2 ^ nbits), a := 0, b := 0, width := 0, lsb := 0 }

/-- The instruction the decoder reads from a word numbered as spec/opcode_table.json numbers it. -/
def decodeTableWord (nbits w : Nat) : Option Instr :=
  match decode (tableRequest nbits w) with
  | .instr i => some i
  | .reserved _ => none

end Sys2Proof
end

