-- ==== Sys2Proof/Machine/Operands.lean ====
section
/-! DEFINITION. Operand forms and notation primitives: how a port's bits are read as a number (30_encoding.md R56), the
descriptor validity predicate (00_scope.md R6), and the all-ones word (00_scope.md section 6). -/

namespace Sys2Proof.Machine

/-- `uint(v)`: the natural number a 64-bit vector denotes (00_scope.md section 6). -/
abbrev uint (v : Word) : Nat := v.toNat

/-- `sint(v)`: the integer a 64-bit vector denotes in two's complement, `uint(v) − 2^64·v[63]` (00_scope.md section 6,
R8). -/
abbrev sint (v : Word) : Int := v.toInt

/-- `ONES64`, the all-ones word (00_scope.md section 6). -/
def ones64 : Word := 0xFFFFFFFFFFFFFFFF#64

/-- `ValidField(width, lsb)`, over unbounded naturals, so the sum does not wrap (00_scope.md R5, R6, D12). -/
def validField (width lsb : Nat) : Bool := decide (width ≤ 64) && decide (width + lsb ≤ 64)

end Sys2Proof.Machine
end

