-- ==== Sys2Proof/Config.lean ====
section
/-! DEFINITION. What an implementation of the block may decide for itself. 00_scope.md section 4 leaves no parameter open
(word 64 bits, width, position and amount ports 32 bits, operation field 4 bits, largest field and shift 64, ten
operations, four status codes), so the one entry is the value the spec does not define: `result_o` when the status is
not OK. -/

namespace Sys2Proof

/-- The value on `result_o` when `status_o` is not OK. 10_state.md R30: it "is not defined by this spec". It is a FREE
VALUE (log entry 3): it has no body, so nothing can be proved about which value it is. It is applied to the values on
the ports (op, a, b, width, lsb), since the outputs depend on nothing else (R24). Safe. -/
opaque Config.undefinedResult : OpCode → Word → Word → Port32 → Port32 → Word

end Sys2Proof
end

