-- ==== Sys2Proof/Machine/State.lean ====
section
/-! DEFINITION. The state a step acts on. The block has NO architectural state (10_state.md R20 to R24), so `State` holds
the values on the block's wires and nothing else: the five input ports as the host drives them (R26) and the outcome on
the two output ports (R27, R28). The outputs are at every moment the outcome of the current inputs (70_reset_and_hazards.md
R130): every operation that changes the inputs sets them (`State.drive`; log entry 2). -/

namespace Sys2Proof.Machine

/-- The four statuses `status_o` reports (60_exceptions.md R110). -/
inductive Status where
  | ok
  | overflow
  | contract
  | illegal
  deriving DecidableEq, Repr

/-- The outcome of one request (10_state.md R28): a status, with a result only when the status is OK (R30). -/
inductive BlockOutcome where
  /-- `status_o = 00`: `result_o` holds the result. -/
  | ok (result : Word)
  /-- `status_o = 01`, NEWU and NEWS only: the value does not fit the field (60_exceptions.md R112). -/
  | overflow
  /-- `status_o = 10`, a fault (60_exceptions.md R116). -/
  | contract
  /-- `status_o = 11`, a refusal (60_exceptions.md R113). -/
  | illegal
  deriving DecidableEq, Repr

/-- The values on the block's wires. -/
structure State where
  /-- The five input ports `op_i`, `a_i`, `b_i`, `width_i`, `lsb_i`, as the host drives them (10_state.md R26). -/
  ports : Request
  /-- The outcome on the two output ports `status_o` and `result_o` (10_state.md R27, R28). -/
  outputs : BlockOutcome
  deriving DecidableEq, Repr

/-- Why a step ends in a fault. -/
inductive Fault where
  /-- CONTRACT (60_exceptions.md R111, R116): a width, field descriptor or shift amount out of range. Raised by all ten
  operations. It carries no information: "there is no faulting address and no saved request". SAFE: the spec's own
  terminal outcome, with no result value. -/
  | contract
  deriving DecidableEq, Repr

/-- Why a step is refused. -/
inductive Refusal where
  /-- An operation of the table with no meaning in the model. Raised by no arm: all ten operations have their meaning.
  SAFE: the machine stops. -/
  | notModelled (mnemonic : String)
  /-- ILLEGAL (60_exceptions.md R113): `op_i` is a reserved code 0xA to 0xF. Raised by `step` when the decoder rejects
  the request. SAFE: the spec's own refusal, with no result value. -/
  | illegal
  deriving DecidableEq, Repr

/-- The state a run starts from. The block has no reset (70_reset_and_hazards.md R130): the input ports carry whatever the
host drives, for which the spec gives no value. DESIGN CHOICE, unsafe (log entry 1): all input wires 0. The outputs are
then the outcome of these inputs, as R130 says: SHLU 0, 0 gives OK 0 (log entry 2, DEDUCED). -/
def State.reset : State :=
  { ports := { op := 0, a := 0, b := 0, width := 0, lsb := 0 }
    outputs := .ok 0 }

end Sys2Proof.Machine
end

