-- ==== Sys2Proof/Machine/Ops.lean ====
section
/-! DEFINITION. The named operations over the state: setting the outputs, ending a request with its outcome, and what the
host observes. Driving the input ports needs the meanings and stands in Machine/Eval.lean. No failure traps
(60_exceptions.md R115): nothing is saved, no mode changes and no vector is taken, so `complete` is the one place where a
request ends, in whichever way. -/

namespace Sys2Proof.Machine

/-- The output ports carry the outcome; the input ports keep their values (20_memory.md R44). -/
def State.setOutputs (s : State) (o : BlockOutcome) : State := { s with outputs := o }

/-- A request ends with its outcome. OK and OVERFLOW are ordinary outcomes the host can go on from (60_exceptions.md
R117); CONTRACT is a fault, never final and never cleared (R116); ILLEGAL is a refusal (R113). -/
def complete (o : BlockOutcome) (s : State) : Host.Outcome State Fault Refusal :=
  match o with
  | .ok result => .next (s.setOutputs (.ok result))
  | .overflow => .next (s.setOutputs .overflow)
  | .contract => .fault .contract
  | .illegal => .refused .illegal

/-- The outcome the host reads from a step's answer (10_state.md R28, R31). A request refused for want of a meaning would
read as ILLEGAL; no step answers that. -/
def observe : Host.Outcome State Fault Refusal → BlockOutcome
  | .next s => s.outputs
  | .fault .contract => .contract
  | .refused _ => .illegal

/-- The value on `result_o[63:0]` for a request with this outcome (10_state.md R27): the result when the status is OK,
and otherwise a free value (R30, log entry 3). -/
def BlockOutcome.resultO (r : Request) : BlockOutcome → Word
  | .ok result => result
  | .overflow => Config.undefinedResult r.op r.a r.b r.width r.lsb
  | .contract => Config.undefinedResult r.op r.a r.b r.width r.lsb
  | .illegal => Config.undefinedResult r.op r.a r.b r.width r.lsb

end Sys2Proof.Machine
end

