-- ==== Sys2Proof/Machine/Shift.lean ====
section
/-! DEFINITION. The shift family (40_shift.md): the primitives `shl64`, `shr64` and `sar64`, which extraction and insertion
use too, and the meanings of SHLU, SHRU, SHLS and SHRS. -/

namespace Sys2Proof.Machine

/-- Shift left: 0 at 64, else `bits64(uint(v)·2^s)`, bits past bit 63 discarded (40_shift.md R70). -/
def shl64 (v : Word) (amount : Nat) : Word := if amount = 64 then 0 else v <<< amount

/-- Logical shift right: 0 at 64, else `bits64(floor(uint(v)/2^s))`, zeros entering at the top (40_shift.md R71). -/
def shr64 (v : Word) (amount : Nat) : Word := if amount = 64 then 0 else v >>> amount

/-- Arithmetic shift right: copies of bit 63 enter at the top, but a shift by 64 is forced to 0, NOT the sign fill
(40_shift.md R73, R75). -/
def sar64 (v : Word) (amount : Nat) : Word := if amount = 64 then 0 else v.sshiftRight amount

/-- A shift operation: CONTRACT when the amount is above 64, else OK with the primitive's result (40_shift.md R74, R76). -/
def shiftOutcome (primitive : Word → Nat → Word) (n : Word) (amount : Nat) : BlockOutcome :=
  if 64 < amount then .contract else .ok (primitive n amount)

/-- SHLU (40_shift.md R70). -/
def execShlu (n : Word) (amount : Nat) (s : State) : Host.Outcome State Fault Refusal :=
  complete (shiftOutcome shl64 n amount) s

/-- SHRU (40_shift.md R71). -/
def execShru (n : Word) (amount : Nat) (s : State) : Host.Outcome State Fault Refusal :=
  complete (shiftOutcome shr64 n amount) s

/-- SHLS (40_shift.md R72): the same bit operation as SHLU; a change of sign or lost bits are not signalled (D8). -/
def execShls (n : Word) (amount : Nat) (s : State) : Host.Outcome State Fault Refusal :=
  complete (shiftOutcome shl64 n amount) s

/-- SHRS (40_shift.md R73). -/
def execShrs (n : Word) (amount : Nat) (s : State) : Host.Outcome State Fault Refusal :=
  complete (shiftOutcome sar64 n amount) s

end Sys2Proof.Machine
end

