-- ==== Sys2Proof/Machine/Extract.lean ====
section
/-! DEFINITION. The extraction family (42_extract.md): the meanings of GETU and GETS, by the mechanism of their rules. -/

namespace Sys2Proof.Machine

/-- `width` one-bits at `[lsb, lsb+width)` (42_extract.md R90). -/
def fieldMask (width lsb : Nat) : Word := shl64 (shr64 ones64 (64 - width)) lsb

/-- The field read as an unsigned number: 0 at width 0, else masked and shifted down (42_extract.md R90). -/
def getUnsigned (word : Word) (width lsb : Nat) : Word :=
  if width = 0 then 0 else shr64 (word &&& fieldMask width lsb) lsb

/-- The field sign-extended: its top bit moved to bit 63, then an arithmetic shift back down by `64 − width`
(42_extract.md R91, C2). At width 0 the second shift is by 64 and gives 0. -/
def getSigned (word : Word) (width lsb : Nat) : Word :=
  sar64 (shl64 word (64 - (width + lsb))) (64 - width)

/-- An extraction: CONTRACT when the descriptor is invalid, checked before any use of the word, else OK
(42_extract.md R92, R93). -/
def extractOutcome (extract : Word → Nat → Nat → Word) (word : Word) (width lsb : Nat) : BlockOutcome :=
  if validField width lsb then .ok (extract word width lsb) else .contract

/-- GETU (42_extract.md R90). -/
def execGetu (word : Word) (width lsb : Nat) (s : State) : Host.Outcome State Fault Refusal :=
  complete (extractOutcome getUnsigned word width lsb) s

/-- GETS (42_extract.md R91). -/
def execGets (word : Word) (width lsb : Nat) (s : State) : Host.Outcome State Fault Refusal :=
  complete (extractOutcome getSigned word width lsb) s

end Sys2Proof.Machine
end

