-- ==== Sys2Proof/Machine/Flags.lean ====
section
/-! DEFINITION. The status output and the Boolean results. The block stores no flag (10_state.md R23): `status_o` is the
only status, computed from the outcome of the current request (60_exceptions.md R110). -/

namespace Sys2Proof.Machine

/-- The 2-bit code of a status (60_exceptions.md R110, D10). -/
def Status.code : Status → BitVec 2
  | .ok => 0b00
  | .overflow => 0b01
  | .contract => 0b10
  | .illegal => 0b11

/-- The status of an outcome (10_state.md R28). -/
def BlockOutcome.status : BlockOutcome → Status
  | .ok _ => .ok
  | .overflow => .overflow
  | .contract => .contract
  | .illegal => .illegal

/-- The value on `status_o[1:0]` (10_state.md R27). -/
def BlockOutcome.statusO (o : BlockOutcome) : BitVec 2 := o.status.code

/-- A predicate's answer as a result word: 1 for true, 0 for false, all other bits 0 (10_state.md R27, D9). -/
def boolWord (answer : Bool) : Word := if answer then 1 else 0

end Sys2Proof.Machine
end

