-- ==== Sys2Proof/Machine/Fit.lean ====
section
/-! DEFINITION. The range-fit family (41_fit.md): the predicates `fitsu` and `fitss`, which insertion uses too, and the
meanings of FITSU and FITSS. -/

namespace Sys2Proof.Machine

/-- Does an unsigned value fit in `width` bits: `0 ≤ value ≤ 2^width − 1` (41_fit.md R80). The lower bound holds of every
natural number. -/
def fitsu (value width : Nat) : Bool := decide (value ≤ 2 ^ width - 1)

/-- Does a signed value fit in `width` bits of two's complement; width 0 admits only 0 (41_fit.md R81, C1). -/
def fitss (value : Int) (width : Nat) : Bool :=
  if width = 0 then decide (value = 0)
  else decide (-(2 : Int) ^ (width - 1) ≤ value) && decide (value ≤ (2 : Int) ^ (width - 1) - 1)

/-- A fit operation: CONTRACT when the width is above 64, else OK with the answer as a word (41_fit.md R82, R84). The
answer is asked for only once the width is known to be in range. -/
def fitOutcome (width : Nat) (answer : Nat → Bool) : BlockOutcome :=
  if 64 < width then .contract else .ok (boolWord (answer width))

/-- FITSU (41_fit.md R80). -/
def execFitsu (value : Word) (width : Nat) (s : State) : Host.Outcome State Fault Refusal :=
  complete (fitOutcome width (fitsu (uint value))) s

/-- FITSS (41_fit.md R81). -/
def execFitss (value : Word) (width : Nat) (s : State) : Host.Outcome State Fault Refusal :=
  complete (fitOutcome width (fitss (sint value))) s

end Sys2Proof.Machine
end

