-- ==== Sys2Proof/Machine/Insert.lean ====
section
/-! DEFINITION. The insertion family (43_insert.md): the meanings of NEWU and NEWS, by the mechanism of their rules. -/

namespace Sys2Proof.Machine

/-- Ones above the field and ones below it (43_insert.md R100). -/
def keepMask (width lsb : Nat) : Word := shl64 ones64 (width + lsb) ||| shr64 ones64 (64 - lsb)

/-- The field cleared and the value moved into place (43_insert.md R100). -/
def newUnsigned (word : Word) (width lsb : Nat) (value : Word) : Word :=
  (word &&& keepMask width lsb) ||| shl64 value lsb

/-- As `newUnsigned`, with the value masked to its low `width` bits first (43_insert.md R101, C3). -/
def newSigned (word : Word) (width lsb : Nat) (value : Word) : Word :=
  (word &&& keepMask width lsb) ||| shl64 (value &&& shr64 ones64 (64 - width)) lsb

/-- An insertion checks the descriptor first (CONTRACT), the value second (OVERFLOW), and only then produces a word
(43_insert.md R102, 60_exceptions.md R114). -/
def insertOutcome (insert : Word → Nat → Nat → Word → Word) (fits : Nat → Bool) (word : Word) (width lsb : Nat)
    (value : Word) : BlockOutcome :=
  if validField width lsb then (if fits width then .ok (insert word width lsb value) else .overflow) else .contract

/-- NEWU (43_insert.md R100). -/
def execNewu (word : Word) (width lsb : Nat) (value : Word) (s : State) : Host.Outcome State Fault Refusal :=
  complete (insertOutcome newUnsigned (fitsu (uint value)) word width lsb value) s

/-- NEWS (43_insert.md R101). -/
def execNews (word : Word) (width lsb : Nat) (value : Word) (s : State) : Host.Outcome State Fault Refusal :=
  complete (insertOutcome newSigned (fitss (sint value)) word width lsb value) s

end Sys2Proof.Machine
end

