-- ==== Sys2Proof/Machine/Dispatch.lean ====
section
/-! DEFINITION. One arm per constructor of Instr: the operation table of 30_encoding.md R51. -/

namespace Sys2Proof.Machine

/-- One operation evaluated: each arm is one call of the operation's meaning. -/
def exec (i : Instr) (s : State) : Host.Outcome State Fault Refusal :=
  match i with
  | .shlu n amount => Sys2Proof.Machine.execShlu n amount s
  | .shru n amount => Sys2Proof.Machine.execShru n amount s
  | .shls n amount => Sys2Proof.Machine.execShls n amount s
  | .shrs n amount => Sys2Proof.Machine.execShrs n amount s
  | .fitsu value width => Sys2Proof.Machine.execFitsu value width s
  | .fitss value width => Sys2Proof.Machine.execFitss value width s
  | .getu word width lsb => Sys2Proof.Machine.execGetu word width lsb s
  | .gets word width lsb => Sys2Proof.Machine.execGets word width lsb s
  | .newu word width lsb value => Sys2Proof.Machine.execNewu word width lsb value s
  | .news word width lsb value => Sys2Proof.Machine.execNews word width lsb value s

end Sys2Proof.Machine
end

