-- ==== Sys2Proof/Machine/Eval.lean ====
section
/-! DEFINITION. The block as a combinational evaluator (10_state.md R25): a request evaluated, the outcome as a function of
the request alone, and the host driving the inputs, upon which the outputs follow at once (70_reset_and_hazards.md R130). -/

namespace Sys2Proof.Machine

/-- The request on the input ports evaluated: the operation its code selects, or ILLEGAL for a reserved code, before any
operand is examined (30_encoding.md R54, 60_exceptions.md R113, R114). -/
def evaluate (s : State) : Host.Outcome State Fault Refusal :=
  match decode s.ports with
  | .instr i => exec i s
  | .reserved _ => complete .illegal s

/-- The outcome of a request as a function of the request alone (10_state.md R28). What the outputs carried before does not
matter (R24), so any value may stand there. -/
def eval (r : Request) : BlockOutcome := observe (evaluate { ports := r, outputs := .ok 0 })

/-- The host drives the five input ports with any values (10_state.md R31). The outputs are at every moment the outcome of
the current inputs (70_reset_and_hazards.md R130), so they follow at once, a failure's status too; inputs that are still
changing are not modelled (R132, log entry 8). -/
def State.drive (_s : State) (r : Request) : State := { ports := r, outputs := eval r }

end Sys2Proof.Machine
end

