-- ==== Sys2Proof/Machine/Step.lean ====
section
/-! DEFINITION. One step: one atomic evaluation of the request on the input ports, which the host samples
(70_reset_and_hazards.md R132). Nothing is fetched (10_state.md R22): the ports name the operation. -/

namespace Sys2Proof.Machine

/-- One evaluation of the request on the input ports, with the host's reading of its status: it can go on after OK and
OVERFLOW, and must stop on CONTRACT and ILLEGAL (10_state.md R31). -/
def step (s : State) : Host.Outcome State Fault Refusal := evaluate s

/-- The table word's request on the input ports, where the very next step takes its operation from (log entry 4). -/
def State.withFetchWord (s : State) (nbits w : Nat) : State := s.drive (tableRequest nbits w)

end Sys2Proof.Machine
end

