-- ==== Sys2Proof/Machine/Assembler.lean ====
section
/-! DEFINITION. The assembler of requests (30_encoding.md R58 to R60): ten mnemonics, each with its operands in the order of
the source signatures, literals with their ranges, and operands `%k` that stand for the result of an earlier request. It
belongs to the host, not to the block (R61, D21). -/

namespace Sys2Proof.Machine

/-- The ten mnemonics (30_encoding.md R58). There are no pseudo-instructions (R60). -/
inductive Mnemonic where
  | shlu | shru | shls | shrs | fitsu | fitss | getu | gets | newu | news
  deriving DecidableEq, Repr

/-- How an operand is read (30_encoding.md R56, R59). -/
inductive OperandKind where
  /-- `width`, `lsb`, `s`: a natural number on a 32-bit port. -/
  | natural32
  /-- An unsigned 64-bit operand. -/
  | unsigned64
  /-- A signed 64-bit operand, carried as its two's-complement pattern. -/
  | signed64
  deriving DecidableEq, Repr

/-- The port an operand is driven on (30_encoding.md R52). -/
inductive OperandPort where
  | a | b | width | lsb
  deriving DecidableEq, Repr

/-- An operand: a literal's number, or the result of an earlier request (30_encoding.md R58). A hexadecimal literal is the
number its digits write (R59). -/
inductive Operand where
  | literal (value : Int)
  | ref (k : Nat)
  deriving DecidableEq, Repr

/-- A written request: a mnemonic and its operands in written order (30_encoding.md R58). -/
structure AsmRequest where
  mnemonic : Mnemonic
  operands : List Operand
  deriving DecidableEq, Repr

/-- Why the assembler emits no request. -/
inductive AsmError where
  /-- More or fewer operands than the mnemonic's syntax has (30_encoding.md R58). -/
  | operandCount
  /-- A literal, or a result used as an operand, outside its operand's range (30_encoding.md R59). -/
  | outOfRange (value : Int)
  /-- `%k` names no request with status OK, so it has no result to use (30_encoding.md R61). -/
  | noResult (k : Nat)
  deriving DecidableEq, Repr

/-- The operation code of a mnemonic (30_encoding.md R51). -/
def Mnemonic.code : Mnemonic → OpCode
  | .shlu => 0x0
  | .shru => 0x1
  | .shls => 0x2
  | .shrs => 0x3
  | .fitsu => 0x4
  | .fitss => 0x5
  | .getu => 0x6
  | .gets => 0x7
  | .newu => 0x8
  | .news => 0x9

/-- The operands of a mnemonic in written order (30_encoding.md R58), each with its port (R52) and reading (R56). -/
def Mnemonic.signature : Mnemonic → List (OperandPort × OperandKind)
  | .shlu => [(.a, .unsigned64), (.width, .natural32)]
  | .shru => [(.a, .unsigned64), (.width, .natural32)]
  | .shls => [(.a, .signed64), (.width, .natural32)]
  | .shrs => [(.a, .signed64), (.width, .natural32)]
  | .fitsu => [(.a, .unsigned64), (.width, .natural32)]
  | .fitss => [(.a, .signed64), (.width, .natural32)]
  | .getu => [(.a, .unsigned64), (.width, .natural32), (.lsb, .natural32)]
  | .gets => [(.a, .unsigned64), (.width, .natural32), (.lsb, .natural32)]
  | .newu => [(.a, .unsigned64), (.width, .natural32), (.lsb, .natural32), (.b, .unsigned64)]
  | .news => [(.a, .unsigned64), (.width, .natural32), (.lsb, .natural32), (.b, .signed64)]

/-- The range a literal must lie in (30_encoding.md R59); a signed operand goes up to `2^64 − 1`, since a hexadecimal
literal is taken as a bit pattern. -/
def OperandKind.inRange : OperandKind → Int → Bool
  | .natural32, v => decide (0 ≤ v) && decide (v < 2 ^ 32)
  | .unsigned64, v => decide (0 ≤ v) && decide (v < 2 ^ 64)
  | .signed64, v => decide (-(2 : Int) ^ 63 ≤ v) && decide (v < 2 ^ 64)

/-- The request with one operand driven on its port: its number modulo the port's size (`bits64`, 30_encoding.md R59). -/
def OperandPort.drive (p : OperandPort) (v : Int) (r : Request) : Request :=
  match p with
  | .a => { r with a := BitVec.ofInt 64 v }
  | .b => { r with b := BitVec.ofInt 64 v }
  | .width => { r with width := BitVec.ofInt 32 v }
  | .lsb => { r with lsb := BitVec.ofInt 32 v }

/-- The number an operand stands for: a literal's, or that of the pattern of an earlier result (30_encoding.md R58, R61).
`results k` is the result of `%k` when its status was OK. -/
def Operand.number (results : Nat → Option Word) : Operand → Except AsmError Int
  | .literal v => .ok v
  | .ref k => match results k with
    | some w => .ok w.toNat
    | none => .error (.noResult k)

/-- The operands driven on their ports in written order; a number outside its operand's range is refused
(30_encoding.md R59; for a `%k` on a 32-bit port log entry 5). -/
def assembleOperands (results : Nat → Option Word) :
    List (OperandPort × OperandKind) → List Operand → Request → Except AsmError Request
  | [], [], r => .ok r
  | (port, kind) :: signature, operand :: operands, r =>
    match operand.number results with
    | .ok v => if kind.inRange v then assembleOperands results signature operands (port.drive v r) else .error (.outOfRange v)
    | .error e => .error e
  | _, _, _ => .error .operandCount

/-- The request a written request stands for: ports its syntax does not write carry 0 (30_encoding.md R58). -/
def assemble (results : Nat → Option Word) (q : AsmRequest) : Except AsmError Request :=
  assembleOperands results q.mnemonic.signature q.operands
    { op := q.mnemonic.code, a := 0, b := 0, width := 0, lsb := 0 }

end Sys2Proof.Machine
end

