-- ==== Sys2Proof/Machine/HostProgram.lean ====
section
/-! DEFINITION. Host programs (30_encoding.md R61): the other agent of the spec. The host issues requests to the block it
drives, names their outcomes, branches on a status and stops. All control flow is here: the block has none (10_state.md
R22). What R61 leaves open (a name used twice, a label defined twice or nowhere) is log entry 7. -/

namespace Sys2Proof.Machine

/-- A statement of a host program (30_encoding.md R61). -/
inductive HostStmt where
  /-- `%k = <request>`: issue a request and name its outcome. -/
  | request (k : Nat) (q : AsmRequest)
  /-- `if %k.status == <status> goto L`: branch on an outcome's status. -/
  | branch (k : Nat) (status : Status) (target : String)
  /-- `L:`: a label. -/
  | label (name : String)
  /-- `goto L`: an unconditional jump. -/
  | goto (target : String)
  /-- `halt`: the end of the program. -/
  | halt
  deriving DecidableEq, Repr

/-- How a host program stopped. All but `halt` mean that it has faulted (30_encoding.md R61: "A program that stops without
`halt` has faulted"). -/
inductive HostStop where
  /-- It reached `halt`. -/
  | halt
  /-- A request's outcome was CONTRACT (60_exceptions.md R116). -/
  | contract
  /-- A request's outcome was ILLEGAL (60_exceptions.md R113). -/
  | illegal
  /-- The assembler emitted no request: a literal out of range, or an illegal use of `%k` (30_encoding.md R59, R61). -/
  | notAssembled (e : AsmError)
  /-- A branch reads the status of a `%k` that names no outcome. -/
  | noOutcome (k : Nat)
  /-- A jump to a label the program does not have. -/
  | noLabel (name : String)
  /-- The program ran past its last statement without `halt`. -/
  | offEnd
  deriving DecidableEq, Repr

/-- The host's state while it runs a program: where it is, the named outcomes (latest first), how it stopped, and the
block it drives (95_test_vectors.md section 3). -/
structure HostState where
  pc : Nat
  outcomes : List (Nat × BlockOutcome)
  stop : Option HostStop
  block : State
  deriving DecidableEq, Repr

/-- A program's start: "the empty set of named outcomes" (95_test_vectors.md section 3). -/
def HostState.start : HostState := { pc := 0, outcomes := [], stop := none, block := State.reset }

/-- The program has faulted: it stopped in any way but `halt` (30_encoding.md R61). -/
def HostState.faulted (h : HostState) : Bool :=
  match h.stop with
  | none => false
  | some stop => decide (stop ≠ .halt)

/-- The outcome `%k` names: that of the latest request issued under the name. -/
def HostState.outcome (h : HostState) (k : Nat) : Option BlockOutcome := h.outcomes.lookup k

/-- The result `%k` means as an operand: there is one only when its status was OK (30_encoding.md R61, 10_state.md R30). -/
def HostState.result (h : HostState) (k : Nat) : Option Word :=
  match h.outcome k with
  | some (.ok w) => some w
  | _ => none

/-- The host goes on with the statement at `pc`. -/
def HostState.goTo (h : HostState) (pc : Nat) : HostState := { h with pc := pc }

/-- The host stops. -/
def HostState.stopWith (h : HostState) (stop : HostStop) : HostState := { h with stop := some stop }

/-- The outcome of a request named `k` is recorded. -/
def HostState.record (h : HostState) (k : Nat) (o : BlockOutcome) : HostState :=
  { h with outcomes := (k, o) :: h.outcomes }

/-- What the host does once it has read a status: it goes on after OK and OVERFLOW, and must stop on CONTRACT and ILLEGAL
(10_state.md R31, 60_exceptions.md R116, R117). -/
def HostState.afterStatus (h : HostState) : Status → HostState
  | .ok => h.goTo (h.pc + 1)
  | .overflow => h.goTo (h.pc + 1)
  | .contract => h.stopWith .contract
  | .illegal => h.stopWith .illegal

/-- The block after an evaluation. A failure that ends the run leaves the block as it is, its inputs and its status still on
the wires: nothing is saved or changed (60_exceptions.md R115). -/
def State.after (block : State) : Host.Outcome State Fault Refusal → State
  | .next block' => block'
  | .fault _ => block
  | .refused _ => block

/-- One request issued to the block: the ports driven, the block evaluated once, the outcome recorded under its name. -/
def HostState.issue (h : HostState) (k : Nat) (r : Request) : HostState :=
  let driven := h.block.drive r
  let answer := step driven
  ({ h with block := driven.after answer }.record k (observe answer)).afterStatus (observe answer).status

/-- A jump to a label: to the statement at its first definition. -/
def HostState.jump (program : List HostStmt) (h : HostState) (target : String) : HostState :=
  match program.findIdx? (fun stmt => decide (stmt = .label target)) with
  | some pc => h.goTo pc
  | none => h.stopWith (.noLabel target)

/-- One statement of a host program (30_encoding.md R61). -/
def HostState.execStmt (program : List HostStmt) (h : HostState) : HostStmt → HostState
  | .request k q => match assemble h.result q with
    | .ok r => h.issue k r
    | .error e => h.stopWith (.notAssembled e)
  | .branch k status target => match h.outcome k with
    | some o => if o.status = status then h.jump program target else h.goTo (h.pc + 1)
    | none => h.stopWith (.noOutcome k)
  | .label _ => h.goTo (h.pc + 1)
  | .goto target => h.jump program target
  | .halt => h.stopWith .halt

/-- One step of a host program. A stopped program stays as it is: a fault is never cleared (60_exceptions.md R116). -/
def hostStep (program : List HostStmt) (h : HostState) : HostState :=
  match h.stop with
  | some _ => h
  | none => match program[h.pc]? with
    | some stmt => h.execStmt program stmt
    | none => h.stopWith .offEnd

/-- The host's state after a number of steps. -/
def hostRun (program : List HostStmt) : Nat → HostState → HostState
  | 0, h => h
  | n + 1, h => hostRun program n (hostStep program h)

end Sys2Proof.Machine
end

