-- ==== Sys2Proof/Machine/AsmText.lean ====
section
/-! DEFINITION. The written form of requests, literals and host programs (30_encoding.md R58, R59, R61) read from text. The
spec fixes the words and the literals; how a line is spaced, lower-case hexadecimal digits, and that a semicolon begins a
comment are read from the programs of 95_test_vectors.md section 3; the form of `k` in `%k` and of a label's name, how many
labels a line may have and that the two signs of `==` may stand apart are the model's choices (log entry 6). -/

namespace Sys2Proof.Machine

/-- The value of a digit in a base. -/
def digitValue (base : Nat) (c : Char) : Option Nat :=
  let n := c.toNat
  let d := if 48 ≤ n ∧ n ≤ 57 then n - 48 else if 65 ≤ n ∧ n ≤ 70 then n - 55 else if 97 ≤ n ∧ n ≤ 102 then n - 87 else base
  if d < base then some d else none

/-- Digits after the first, with `_` allowed between digits (30_encoding.md R59). -/
def readDigits (base : Nat) (acc : Nat) : List Char → Option Nat
  | [] => some acc
  | '_' :: c :: cs => match digitValue base c with
    | some d => readDigits base (acc * base + d) cs
    | none => none
  | c :: cs => match digitValue base c with
    | some d => readDigits base (acc * base + d) cs
    | none => none

/-- A number: a digit, then digits. -/
def readNatural (base : Nat) : List Char → Option Nat
  | [] => none
  | c :: cs => match digitValue base c with
    | some d => readDigits base d cs
    | none => none

/-- A literal: decimal with an optional leading `-`, or hexadecimal `0x…` (30_encoding.md R59). -/
def readLiteral : List Char → Option Int
  | '0' :: 'x' :: cs => (readNatural 16 cs).map (fun n => (n : Int))
  | '-' :: cs => (readNatural 10 cs).map (fun n => -(n : Int))
  | cs => (readNatural 10 cs).map (fun n => (n : Int))

/-- `%k`: the name of an outcome (30_encoding.md R58). DESIGN CHOICE (log entry 6): the spec does not give the form of `k`
(its programs use `%0` to `%6`); the model reads a decimal number written like a decimal literal's digits, with `_` allowed
between digits and leading zeros, so `%10`, `%1_0` and `%010` are one name. -/
def readName : List Char → Option Nat
  | '%' :: cs => readNatural 10 cs
  | _ => none

/-- An operand: `%k` or a literal. -/
def readOperand (word : String) : Option Operand :=
  match readName word.toList with
  | some k => some (.ref k)
  | none => (readLiteral word.toList).map .literal

/-- The mnemonic a word spells (30_encoding.md R58). -/
def readMnemonic (word : String) : Option Mnemonic :=
  [("SHLU", Mnemonic.shlu), ("SHRU", .shru), ("SHLS", .shls), ("SHRS", .shrs), ("FITSU", .fitsu), ("FITSS", .fitss),
    ("GETU", .getu), ("GETS", .gets), ("NEWU", .newu), ("NEWS", .news)].lookup word

/-- The status a word spells (60_exceptions.md R110). -/
def readStatus (word : String) : Option Status :=
  [("OK", Status.ok), ("OVERFLOW", .overflow), ("CONTRACT", .contract), ("ILLEGAL", .illegal)].lookup word

/-- `%k.status`: the name of an outcome's status (30_encoding.md R61). -/
def readStatusName (word : String) : Option Nat :=
  let cs := word.toList
  if cs.drop (cs.length - 7) = ".status".toList then readName (cs.take (cs.length - 7)) else none

/-- A finished word put before the tokens that follow it; an empty one is none. -/
def pushWord (word : List Char) (tokens : List String) : List String :=
  if word = [] then tokens else String.ofList word.reverse :: tokens

/-- A line cut into words and the marks `,`, `:` and `=`; `word` holds the open word, last character first. A semicolon
ends the line. -/
def tokens (word : List Char) : List Char → List String
  | [] => pushWord word []
  | ';' :: _ => pushWord word []
  | c :: cs =>
    if c = ' ' ∨ c = '\t' then pushWord word (tokens [] cs)
    else if c = ',' ∨ c = ':' ∨ c = '=' then pushWord word (String.ofList [c] :: tokens [] cs)
    else tokens (c :: word) cs

/-- Operands separated by commas. -/
def readOperands : List String → Option (List Operand)
  | [] => none
  | [w] => (readOperand w).map (fun x => [x])
  | w :: "," :: rest => match readOperand w, readOperands rest with
    | some x, some xs => some (x :: xs)
    | _, _ => none
  | _ => none

/-- A request: a mnemonic and its operands (30_encoding.md R58). -/
def readRequest : List String → Option AsmRequest
  | [] => none
  | w :: rest => match readMnemonic w, readOperands rest with
    | some m, some xs => some ⟨m, xs⟩
    | _, _ => none

/-- One statement without a label before it (30_encoding.md R61). DESIGN CHOICE (log entry 6): a target, like a label in
`readLine`, may be any token; `==` is read as two `=` marks, which spaces may part; and all four status names are read. -/
def readStmt : List String → Option HostStmt
  | ["halt"] => some .halt
  | ["goto", target] => some (.goto target)
  | ["if", name, "=", "=", status, "goto", target] => match readStatusName name, readStatus status with
    | some k, some st => some (.branch k st target)
    | _, _ => none
  | name :: "=" :: rest => match readName name.toList, readRequest rest with
    | some k, some q => some (.request k q)
    | _, _ => none
  | _ => none

/-- The statements of a line: none, a label, a statement, or a label and a statement after it (30_encoding.md R61). DESIGN
CHOICE (log entry 6): the spec writes `L:` and does not give the form of `L` (its programs use `L1` and `L2`); the model
takes any one token before a colon as the label, a keyword such as `halt`, a `%k`, a literal or a mark too, letter for
letter, and at most one label on a line. -/
def readLine : List String → Option (List HostStmt)
  | [] => some []
  | [name, ":"] => some [.label name]
  | name :: ":" :: rest => (readStmt rest).map (fun stmt => [.label name, stmt])
  | rest => (readStmt rest).map (fun stmt => [stmt])

/-- A program from its lines. -/
def readProgram : List String → Option (List HostStmt)
  | [] => some []
  | line :: lines => match readLine (tokens [] line.toList), readProgram lines with
    | some stmts, some rest => some (stmts ++ rest)
    | _, _ => none

end Sys2Proof.Machine
end

