-- ==== Sys2Proof/Safety.lean ====
section
/-! DEFINITION. What counts as a safe request, and the spec's own tables of when a request fails and what it gives, written
as conditions on the port values and as arithmetic on whole numbers. They are independent of the meanings (which follow the
rules' shift-and-mask mechanisms), so that claims can hold the two against each other. -/

namespace Sys2Proof

open Sys2Proof.Machine

/-- The operation code is reserved: the ILLEGAL condition (60_exceptions.md R113). -/
def Request.reservedCode (r : Request) : Bool := decide (0xA ≤ r.op.toNat)

/-- `ValidField` of the descriptor on the ports, over naturals (00_scope.md R6). -/
def Request.validDescriptor (r : Request) : Bool :=
  decide (r.width.toNat ≤ 64 ∧ r.width.toNat + r.lsb.toNat ≤ 64)

/-- The table of 60_exceptions.md R111: when an operation's width, descriptor or shift amount is a contract violation. -/
def Request.contractViolation (r : Request) : Bool :=
  if r.op.toNat ≤ 0x5 then decide (64 < r.width.toNat)
  else if r.op.toNat ≤ 0x9 then !r.validDescriptor
  else false

/-- The inserted value, read as unsigned, is above `2^width − 1` (43_insert.md R100). -/
def Request.unsignedMisfit (r : Request) : Bool := decide (2 ^ r.width.toNat ≤ r.b.toNat)

/-- The inserted value, read as signed, is outside `−2^(width−1) … 2^(width−1) − 1`, or is not 0 when the width is 0
(43_insert.md R101). -/
def Request.signedMisfit (r : Request) : Bool :=
  if r.width.toNat = 0 then decide (r.b ≠ 0)
  else decide (r.b.toInt < -(2 : Int) ^ (r.width.toNat - 1) ∨ (2 : Int) ^ (r.width.toNat - 1) ≤ r.b.toInt)

/-- The overflow condition of 60_exceptions.md R112: an insertion, a valid descriptor, a value that does not fit. -/
def Request.overflows (r : Request) : Bool :=
  if r.op.toNat = 0x8 then r.validDescriptor && r.unsignedMisfit
  else if r.op.toNat = 0x9 then r.validDescriptor && r.signedMisfit
  else false

/-- The one status a request reports: the first condition that applies, in the order of 60_exceptions.md R114. -/
def Request.specStatus (r : Request) : Status :=
  if r.reservedCode then .illegal
  else if r.contractViolation then .contract
  else if r.overflows then .overflow
  else .ok

/-- The field `[lsb, lsb+width)` of `a` as an unsigned number (the value line of 42_extract.md R90). -/
def Request.fieldNumber (r : Request) : Nat := r.a.toNat / 2 ^ r.lsb.toNat % 2 ^ r.width.toNat

/-- The same field read in two's complement (the value line of 42_extract.md R91). -/
def Request.fieldInteger (r : Request) : Int :=
  if r.width.toNat = 0 then 0
  else if r.fieldNumber < 2 ^ (r.width.toNat - 1) then r.fieldNumber
  else (r.fieldNumber : Int) - 2 ^ r.width.toNat

/-- The word `a` with its field replaced by the number `v`: the bits above, the field, the bits below (the value lines of
43_insert.md R100 and R101). -/
def Request.replacedField (r : Request) (v : Nat) : Nat :=
  r.a.toNat / 2 ^ (r.lsb.toNat + r.width.toNat) * 2 ^ (r.lsb.toNat + r.width.toNat)
    + v * 2 ^ r.lsb.toNat + r.a.toNat % 2 ^ r.lsb.toNat

/-- The result the rules' value formulas give a request whose status is OK, by whole-number arithmetic: 40_shift.md R70 to
R73, 41_fit.md R80 and R81, 42_extract.md R90 and R91, 43_insert.md R100 and R101. A reserved code gives no result. -/
def Request.specResult (r : Request) : Option Word :=
  match r.op.toNat with
  | 0x0 => some (BitVec.ofNat 64 (r.a.toNat * 2 ^ r.width.toNat))
  | 0x1 => some (BitVec.ofNat 64 (r.a.toNat / 2 ^ r.width.toNat))
  | 0x2 => some (BitVec.ofInt 64 (r.a.toInt * 2 ^ r.width.toNat))
  | 0x3 => some (if r.width.toNat = 64 then 0 else BitVec.ofInt 64 (r.a.toInt / 2 ^ r.width.toNat))
  | 0x4 => some (if r.a.toNat < 2 ^ r.width.toNat then 1 else 0)
  | 0x5 => some (if r.width.toNat = 0 then (if r.a.toInt = 0 then 1 else 0)
      else if -(2 : Int) ^ (r.width.toNat - 1) ≤ r.a.toInt ∧ r.a.toInt < (2 : Int) ^ (r.width.toNat - 1) then 1 else 0)
  | 0x6 => some (BitVec.ofNat 64 r.fieldNumber)
  | 0x7 => some (BitVec.ofInt 64 r.fieldInteger)
  | 0x8 => some (BitVec.ofNat 64 (r.replacedField r.b.toNat))
  | 0x9 => some (BitVec.ofNat 64 (r.replacedField (r.b.toNat % 2 ^ r.width.toNat)))
  | _ => none

/-- A request the host may issue and go on from: it names an operation and violates no contract (60_exceptions.md R116:
every claim about a program takes "no CONTRACT outcome" as a premise). An overflow is safe (R117). -/
def Request.safe (r : Request) : Bool := !r.reservedCode && !r.contractViolation

/-- The outputs are the outcome of the values on the input ports, which 70_reset_and_hazards.md R130 says of every moment. It
holds of the first state, and driving, stepping and issuing a request keep it; a state without it is no state of the
hardware. -/
abbrev Machine.State.Settled (s : State) : Prop := s.outputs = eval s.ports

end Sys2Proof
end

