-- ==== Sys2Proof/WellFormed.lean ====
section
/-! DEFINITION. Which instructions some request carries: a width, position or shift amount lies in `0 … 2^32 − 1`, the
range of its 32-bit port (30_encoding.md R56). A value above 64 IS well formed: it is decoded, and the operation then
raises CONTRACT (R54, R59). Data operands are 64-bit patterns by type, so nothing is left to check of them. -/

namespace Sys2Proof

/-- The natural number can be driven on a 32-bit port (30_encoding.md R56). -/
def fitsPort32 (n : Nat) : Bool := decide (n < 2 ^ 32)

/-- The instruction's natural-number operands are values of their 32-bit ports (30_encoding.md R56). -/
def Instr.wellFormed : Instr → Bool
  | .shlu _ amount => fitsPort32 amount
  | .shru _ amount => fitsPort32 amount
  | .shls _ amount => fitsPort32 amount
  | .shrs _ amount => fitsPort32 amount
  | .fitsu _ width => fitsPort32 width
  | .fitss _ width => fitsPort32 width
  | .getu _ width lsb => fitsPort32 width && fitsPort32 lsb
  | .gets _ width lsb => fitsPort32 width && fitsPort32 lsb
  | .newu _ width lsb _ => fitsPort32 width && fitsPort32 lsb
  | .news _ width lsb _ => fitsPort32 width && fitsPort32 lsb

end Sys2Proof
end

