-- ==== Sys2Proof/Certificates/Slice0/Obligations.lean ====
section
/-! DEFINITION. The statements about the model. The shapes: an operation's rule says which requests select it, where it
raises CONTRACT or OVERFLOW, and, as equations `exec … = .next …`, where it completes and with which result. `s.setOutputs o`
is `s` with the outcome `o` on the output ports and its input ports unchanged (ExecFrame says what that leaves alone).
Ports, codes, statuses, the range of a shift amount and the order of the checks are decisions of the spec (D1 to D22 of
92_eei_decisions.md), which its rules state; the statements take them from the rules. -/

open Sys2Proof Sys2Proof.Machine

/-! ## Reset, decoding, encoding -/

/-- The first state's outputs are the outcome of its inputs (70_reset_and_hazards.md R130 says so of the outputs at every
moment). That the inputs are 0 there is the model's choice (log entry 1). -/
def Obligations.ResetOutputsAreOutcomeOfInputs : Prop :=
  State.reset.Settled ∧ State.reset.outputs = .ok 0

/-- A step is the operation the ports select (30_encoding.md R54, 10_state.md R22); nothing is added around it. -/
def Obligations.StepRunsDecodedInstruction : Prop :=
  ∀ (s : State) (i : Instr), decode s.ports = .instr i → step s = exec i s

/-- 30_encoding.md R51 to R53: the table of codes, with the port each operand comes from. -/
def Obligations.OperationTable : Prop :=
  ∀ r : Request,
    (r.op = 0x0 → decode r = .instr (.shlu r.a r.width.toNat)) ∧
    (r.op = 0x1 → decode r = .instr (.shru r.a r.width.toNat)) ∧
    (r.op = 0x2 → decode r = .instr (.shls r.a r.width.toNat)) ∧
    (r.op = 0x3 → decode r = .instr (.shrs r.a r.width.toNat)) ∧
    (r.op = 0x4 → decode r = .instr (.fitsu r.a r.width.toNat)) ∧
    (r.op = 0x5 → decode r = .instr (.fitss r.a r.width.toNat)) ∧
    (r.op = 0x6 → decode r = .instr (.getu r.a r.width.toNat r.lsb.toNat)) ∧
    (r.op = 0x7 → decode r = .instr (.gets r.a r.width.toNat r.lsb.toNat)) ∧
    (r.op = 0x8 → decode r = .instr (.newu r.a r.width.toNat r.lsb.toNat r.b)) ∧
    (r.op = 0x9 → decode r = .instr (.news r.a r.width.toNat r.lsb.toNat r.b)) ∧
    (0xA ≤ r.op.toNat → decode r = .reserved r.op)

/-- Every well-formed instruction, at every operand value, comes back from its 196-bit written form (30_encoding.md R50 to
R52, R58). -/
def Obligations.DecodeOfPackedEncode : Prop :=
  ∀ i : Instr, i.wellFormed = true → decode (unpack (pack (encode i))) = .instr i

/-- Decoding loses nothing of the ports the operation reads, and what it answers is well formed: encoding again gives the
same request with its unused ports 0 (30_encoding.md R52, R56, R58). -/
def Obligations.EncodeOfDecode : Prop :=
  ∀ (r : Request) (i : Instr), decode r = .instr i →
    i.wellFormed = true ∧
    encode i = { r with
      b := if 0x8 ≤ r.op.toNat then r.b else 0
      lsb := if 0x6 ≤ r.op.toNat then r.lsb else 0 }

/-- 30_encoding.md R50: the place of each field in the packed form, and that the form writes down the request and nothing
else. -/
def Obligations.PackedRequestLayout : Prop :=
  (∀ r : Request, (pack r).toNat = r.op.toNat * 2 ^ 192 + r.lsb.toNat * 2 ^ 160 + r.width.toNat * 2 ^ 128
      + r.b.toNat * 2 ^ 64 + r.a.toNat ∧ unpack (pack r) = r) ∧
  (∀ v : PackedRequest, pack (unpack v) = v)

/-- Packed requests written out in 95_test_vectors.md (S1, P1, P2, P3), one or more of each family, decode to the operation
they are listed as. -/
def Obligations.WrittenRequestsDecode : Prop :=
  decode (unpack 0x60000000400000004000000000000000000000000000000FF) = .instr (.getu 0xFF 4 4) ∧
  decode (unpack 0x90000000500000006FFFFFFFFFFFFFFEC0000000000000011) =
    .instr (.news 0x11 6 5 0xFFFFFFFFFFFFFFEC) ∧
  decode (unpack 0x500000000000000040000000000000000FFFFFFFFFFFFFFF7) = .instr (.fitss 0xFFFFFFFFFFFFFFF7 4) ∧
  decode (unpack 0x3000000000000003C0000000000000000F000000000000000) = .instr (.shrs 0xF000000000000000 60)

/-! ## The whole machine -/

/-- 60_exceptions.md R111: CONTRACT exactly in the table's cases, for which the values on `a_i` and `b_i` do not matter. -/
def Obligations.ContractExactlyInTable : Prop :=
  (∀ s : State, step s = .fault .contract ↔
    (s.ports.op.toNat ≤ 0x5 ∧ 64 < s.ports.width.toNat) ∨
    (0x6 ≤ s.ports.op.toNat ∧ s.ports.op.toNat ≤ 0x9 ∧
      ¬ (s.ports.width.toNat ≤ 64 ∧ s.ports.width.toNat + s.ports.lsb.toNat ≤ 64))) ∧
  (∀ (s : State) (a b : Word),
    step (s.drive { s.ports with a := a, b := b }) = .fault .contract ↔ step s = .fault .contract)

/-- 60_exceptions.md R112: OVERFLOW exactly when an insertion with a valid descriptor has a value that does not fit; never
on extraction, never on a width-0 insertion of 0. -/
def Obligations.OverflowExactlyOnMisfit : Prop :=
  (∀ s : State, observe (step s) = .overflow ↔
    s.ports.validDescriptor = true ∧
      ((s.ports.op = 0x8 ∧ fitsu (uint s.ports.b) s.ports.width.toNat = false) ∨
       (s.ports.op = 0x9 ∧ fitss (sint s.ports.b) s.ports.width.toNat = false))) ∧
  (∀ s : State, s.ports.op = 0x6 ∨ s.ports.op = 0x7 → observe (step s) ≠ .overflow) ∧
  (∀ s : State, s.ports.width = 0 → s.ports.b = 0 → observe (step s) ≠ .overflow)

/-- 60_exceptions.md R113: ILLEGAL exactly for the reserved codes, whatever the other inputs; no step refuses for any other
reason; and the host program that issues such a request stops. -/
def Obligations.IllegalExactlyOnReservedCodes : Prop :=
  (∀ s : State, step s = .refused .illegal ↔ 0xA ≤ s.ports.op.toNat) ∧
  (∀ (s : State) (e : Refusal), step s = .refused e → e = .illegal) ∧
  (∀ (h : HostState) (k : Nat) (r : Request), 0xA ≤ r.op.toNat →
    (h.issue k r).stop = some .illegal)

/-- 60_exceptions.md R114: one status, the first that applies in the order ILLEGAL, CONTRACT, OVERFLOW, OK. -/
def Obligations.StatusPriority : Prop :=
  ∀ s : State, (observe (step s)).statusO =
    if s.ports.reservedCode then 0b11
    else if s.ports.contractViolation then 0b10
    else if s.ports.overflows then 0b01
    else 0b00

/-- 60_exceptions.md R110: the table of status codes, what each means for `result_o`, and which operations raise it. -/
def Obligations.StatusTable : Prop :=
  (∀ s : State, (observe (step s)).statusO = 0b00 ↔
    ∃ v, observe (step s) = .ok v ∧ (observe (step s)).resultO s.ports = v) ∧
  (∀ s : State, (observe (step s)).statusO = 0b01 → s.ports.op = 0x8 ∨ s.ports.op = 0x9) ∧
  (∀ s : State, (observe (step s)).statusO = 0b11 ↔ 0xA ≤ s.ports.op.toNat) ∧
  (∀ c : OpCode, c.toNat ≤ 0x9 →
    (∃ s : State, s.ports.op = c ∧ (observe (step s)).statusO = 0b00) ∧
    (∃ s : State, s.ports.op = c ∧ (observe (step s)).statusO = 0b10)) ∧
  (∀ c : OpCode, c = 0x8 ∨ c = 0x9 → ∃ s : State, s.ports.op = c ∧ (observe (step s)).statusO = 0b01)

/-- 10_state.md R28: the outcome is one of the four, each with its code, and is a function of the request alone, whatever
the outputs carried before. -/
def Obligations.OutcomeIsFunctionOfRequest : Prop :=
  (∀ s : State, observe (step s) = eval s.ports) ∧
  (∀ o : BlockOutcome,
    ((∃ v, o = .ok v) ∧ o.statusO = 0b00) ∨ (o = .overflow ∧ o.statusO = 0b01) ∨
    (o = .contract ∧ o.statusO = 0b10) ∨ (o = .illegal ∧ o.statusO = 0b11)) ∧
  (∀ r : Request, eval r = .overflow → r.op = 0x8 ∨ r.op = 0x9)

/-- 10_state.md R29: an operation that does not read `b_i` (all but NEWU, NEWS) or `lsb_i` (all but GETU, GETS, NEWU, NEWS)
has the same outcome whatever that port carries. -/
def Obligations.UnusedInputsHaveNoEffect : Prop :=
  (∀ (r : Request) (b : Word), r.op ≠ 0x8 → r.op ≠ 0x9 → eval { r with b := b } = eval r) ∧
  (∀ (r : Request) (lsb : Port32), r.op ≠ 0x6 → r.op ≠ 0x7 → r.op ≠ 0x8 → r.op ≠ 0x9 →
    eval { r with lsb := lsb } = eval r)

/-- 20_memory.md R44: a request has no side effect on anything but the outputs, and repeating it gives the same outcome. -/
def Obligations.RequestIsIdempotent : Prop :=
  ∀ s t : State, step s = .next t → t.ports = s.ports ∧ step t = .next t

/-- The frame of all ten operations: none changes an input port, only the output ports are written, and what they carry in
a next state is a result or, from an insertion only, OVERFLOW (10_state.md R20, 20_memory.md R44, 43_insert.md R105,
60_exceptions.md R115). There is no other register and no memory (R20, R40). -/
def Obligations.ExecFrame : Prop :=
  ∀ (i : Instr) (s t : State), exec i s = .next t →
    t.ports.op = s.ports.op ∧ t.ports.a = s.ports.a ∧ t.ports.b = s.ports.b ∧
    t.ports.width = s.ports.width ∧ t.ports.lsb = s.ports.lsb ∧
    ((∃ v, t.outputs = .ok v) ∨
     (t.outputs = .overflow ∧
      ∃ word width lsb value, i = .newu word width lsb value ∨ i = .news word width lsb value))

/-- The invariant of the machine: the outputs are the outcome of the inputs (70_reset_and_hazards.md R130). Every step keeps
it, reaches it from every state, and changes nothing in a state that has it; driving any inputs reaches it at once, and so
does issuing any request, also one that ends in CONTRACT or ILLEGAL; every step of a host program keeps it. -/
def Obligations.StepKeepsOutputsSettled : Prop :=
  (∀ s t : State, s.Settled → step s = .next t → t.Settled) ∧
  (∀ s t : State, step s = .next t → t.Settled) ∧
  (∀ s t : State, s.Settled → step s = .next t → t = s) ∧
  (∀ (s : State) (r : Request), (s.drive r).Settled ∧ (s.drive r).ports = r) ∧
  (∀ (h : HostState) (k : Nat) (r : Request), (h.issue k r).block.Settled ∧ (h.issue k r).block.ports = r) ∧
  (∀ (program : List HostStmt) (h : HostState), h.block.Settled → (hostStep program h).block.Settled)

/-- 70_reset_and_hazards.md R134: no request stalls or fails to finish. Every step answers: a next state, CONTRACT or
ILLEGAL. -/
def Obligations.NoRequestStalls : Prop :=
  ∀ s : State, (∃ t, step s = .next t) ∨ step s = .fault .contract ∨ step s = .refused .illegal

/-- 43_insert.md R103: an overflow ends the request with no result and changes nothing else, and any later request has the
outcome it always has. -/
def Obligations.OverflowIsRecoverable : Prop :=
  ∀ s : State, s.ports.overflows = true →
    step s = .next (s.setOutputs .overflow) ∧
    (s.setOutputs .overflow).ports = s.ports ∧
    ∀ r : Request, observe (step ((s.setOutputs .overflow).drive r)) = eval r

/-! ## Shifts -/

/-- 40_shift.md R70, SHLU. -/
def Obligations.ShluShiftsLeft : Prop :=
  (∀ r : Request, r.op = 0x0 → decode r = .instr (.shlu r.a r.width.toNat)) ∧
  (∀ (n : Word) (amount : Nat) (s : State), 64 < amount → exec (.shlu n amount) s = .fault .contract) ∧
  (∀ (n : Word) (s : State), exec (.shlu n 64) s = .next (s.setOutputs (.ok 0))) ∧
  (∀ (n : Word) (amount : Nat) (s : State), amount < 64 →
    ∃ v : Word, exec (.shlu n amount) s = .next (s.setOutputs (.ok v)) ∧
      v = BitVec.ofNat 64 (n.toNat * 2 ^ amount) ∧
      ∀ i, i < 64 → v.getLsbD i = (decide (amount ≤ i) && n.getLsbD (i - amount)))

/-- 40_shift.md R71, SHRU. -/
def Obligations.ShruShiftsRight : Prop :=
  (∀ r : Request, r.op = 0x1 → decode r = .instr (.shru r.a r.width.toNat)) ∧
  (∀ (n : Word) (amount : Nat) (s : State), 64 < amount → exec (.shru n amount) s = .fault .contract) ∧
  (∀ (n : Word) (s : State), exec (.shru n 64) s = .next (s.setOutputs (.ok 0))) ∧
  (∀ (n : Word) (amount : Nat) (s : State), amount < 64 →
    ∃ v : Word, exec (.shru n amount) s = .next (s.setOutputs (.ok v)) ∧
      v = BitVec.ofNat 64 (n.toNat / 2 ^ amount) ∧
      ∀ i, i < 64 → v.getLsbD i = (decide (i + amount ≤ 63) && n.getLsbD (i + amount)))

/-- 40_shift.md R72, SHLS: on signed numbers, wrapping modulo `2^64` with nothing signalled, and "the same bit
operation as SHLU" (the rule's pseudocode). -/
def Obligations.ShlsShiftsLeftSigned : Prop :=
  (∀ r : Request, r.op = 0x2 → decode r = .instr (.shls r.a r.width.toNat)) ∧
  (∀ (n : Word) (amount : Nat) (s : State), 64 < amount → exec (.shls n amount) s = .fault .contract) ∧
  (∀ (n : Word) (s : State), exec (.shls n 64) s = .next (s.setOutputs (.ok 0))) ∧
  (∀ (n : Word) (amount : Nat) (s : State), amount < 64 →
    exec (.shls n amount) s = .next (s.setOutputs (.ok (BitVec.ofInt 64 (n.toInt * 2 ^ amount))))) ∧
  (∀ (n : Word) (amount : Nat) (s : State), exec (.shls n amount) s = exec (.shlu n amount) s)

/-- 40_shift.md R73, SHRS: copies of the sign bit enter at the top; forced to 0 at 64. -/
def Obligations.ShrsShiftsRightSigned : Prop :=
  (∀ r : Request, r.op = 0x3 → decode r = .instr (.shrs r.a r.width.toNat)) ∧
  (∀ (n : Word) (amount : Nat) (s : State), 64 < amount → exec (.shrs n amount) s = .fault .contract) ∧
  (∀ (n : Word) (s : State), exec (.shrs n 64) s = .next (s.setOutputs (.ok 0))) ∧
  (∀ (n : Word) (amount : Nat) (s : State), amount < 64 →
    ∃ v : Word, exec (.shrs n amount) s = .next (s.setOutputs (.ok v)) ∧
      ∀ i, i < 64 → v.getLsbD i = n.getLsbD (min (i + amount) 63))

/-- SHRS as arithmetic: a signed number divided by a power of two, rounded toward minus infinity (the division of integers by
a positive number is that one here). 40_shift.md R73 marks this as derived from its bit definition. -/
def Obligations.ShrsIsFloorDivision : Prop :=
  ∀ (n : Word) (amount : Nat) (s : State), amount < 64 →
    ∃ v : Word, exec (.shrs n amount) s = .next (s.setOutputs (.ok v)) ∧ v.toInt = n.toInt / 2 ^ amount

/-- 40_shift.md R75: a shift by exactly 64 gives 0 on any input, for all four shifts. -/
def Obligations.ShiftBySixtyFourIsZero : Prop :=
  ∀ (n : Word) (s : State),
    exec (.shlu n 64) s = .next (s.setOutputs (.ok 0)) ∧
    exec (.shru n 64) s = .next (s.setOutputs (.ok 0)) ∧
    exec (.shls n 64) s = .next (s.setOutputs (.ok 0)) ∧
    exec (.shrs n 64) s = .next (s.setOutputs (.ok 0))

/-! ## Range fit -/

/-- 41_fit.md R80, FITSU. -/
def Obligations.FitsuTestsUnsignedRange : Prop :=
  (∀ r : Request, r.op = 0x4 → decode r = .instr (.fitsu r.a r.width.toNat)) ∧
  (∀ (value : Word) (width : Nat) (s : State), 64 < width → exec (.fitsu value width) s = .fault .contract) ∧
  (∀ (value : Word) (width : Nat) (s : State), width ≤ 64 →
    exec (.fitsu value width) s =
      .next (s.setOutputs (.ok (if 0 ≤ (value.toNat : Int) ∧ (value.toNat : Int) ≤ 2 ^ width - 1 then 1 else 0)))) ∧
  (∀ (value : Word) (s : State), exec (.fitsu value 64) s = .next (s.setOutputs (.ok 1)))

/-- 41_fit.md R81, FITSS. -/
def Obligations.FitssTestsSignedRange : Prop :=
  (∀ r : Request, r.op = 0x5 → decode r = .instr (.fitss r.a r.width.toNat)) ∧
  (∀ (value : Word) (width : Nat) (s : State), 64 < width → exec (.fitss value width) s = .fault .contract) ∧
  (∀ (value : Word) (s : State),
    exec (.fitss value 0) s = .next (s.setOutputs (.ok (if value = 0 then 1 else 0)))) ∧
  (∀ (value : Word) (width : Nat) (s : State), 1 ≤ width → width ≤ 64 →
    exec (.fitss value width) s = .next (s.setOutputs (.ok
      (if -(2 : Int) ^ (width - 1) ≤ value.toInt ∧ value.toInt ≤ (2 : Int) ^ (width - 1) - 1 then 1 else 0)))) ∧
  (∀ (value : Word) (s : State), exec (.fitss value 64) s = .next (s.setOutputs (.ok 1)))

/-- 41_fit.md R83: the laws of the two predicates, items 1 to 4. -/
def Obligations.FitPredicateLaws : Prop :=
  (∀ v width : Nat, width < 64 → fitsu v width = decide (v < 2 ^ width)) ∧
  (∀ v : Word, fitsu (uint v) 64 = true) ∧
  (∀ width : Nat, 1 ≤ width → width ≤ 63 →
    fitss ((2 : Int) ^ (width - 1) - 1) width = true ∧ fitss ((2 : Int) ^ (width - 1)) width = false ∧
    fitss (-(2 : Int) ^ (width - 1)) width = true ∧ fitss (-(2 : Int) ^ (width - 1) - 1) width = false) ∧
  (fitss ((2 : Int) ^ 63 - 1) 64 = true ∧ fitss (-(2 : Int) ^ 63) 64 = true) ∧
  (∀ v : Int, fitss v 0 = decide (v = 0))

/-! ## Extraction -/

/-- 42_extract.md R90, GETU: the field zero-extended, whatever mechanism computes it. -/
def Obligations.GetuExtractsUnsigned : Prop :=
  (∀ r : Request, r.op = 0x6 → decode r = .instr (.getu r.a r.width.toNat r.lsb.toNat)) ∧
  (∀ (word : Word) (width lsb : Nat) (s : State), ¬ (width ≤ 64 ∧ width + lsb ≤ 64) →
    exec (.getu word width lsb) s = .fault .contract) ∧
  (∀ (word : Word) (width lsb : Nat) (s : State), width ≤ 64 → width + lsb ≤ 64 →
    ∃ v : Word, exec (.getu word width lsb) s = .next (s.setOutputs (.ok v)) ∧
      ∀ i, i < 64 → v.getLsbD i = (decide (i < width) && word.getLsbD (lsb + i)))

/-- 42_extract.md R91, GETS: the field with copies of its top bit above, 0 at width 0; a number in the signed range of the
width. -/
def Obligations.GetsExtractsSigned : Prop :=
  (∀ r : Request, r.op = 0x7 → decode r = .instr (.gets r.a r.width.toNat r.lsb.toNat)) ∧
  (∀ (word : Word) (width lsb : Nat) (s : State), ¬ (width ≤ 64 ∧ width + lsb ≤ 64) →
    exec (.gets word width lsb) s = .fault .contract) ∧
  (∀ (word : Word) (lsb : Nat) (s : State), lsb ≤ 64 →
    exec (.gets word 0 lsb) s = .next (s.setOutputs (.ok 0))) ∧
  (∀ (word : Word) (width lsb : Nat) (s : State), 1 ≤ width → width ≤ 64 → width + lsb ≤ 64 →
    ∃ v : Word, exec (.gets word width lsb) s = .next (s.setOutputs (.ok v)) ∧
      (∀ i, i < 64 → v.getLsbD i = word.getLsbD (lsb + min i (width - 1))) ∧
      -(2 : Int) ^ (width - 1) ≤ v.toInt ∧ v.toInt ≤ (2 : Int) ^ (width - 1) - 1)

/-- 42_extract.md R94: a width-0 field reads 0; the source's two examples; GETU is the field as an unsigned number, GETS the
same field in two's complement, and the two values, as numbers, agree exactly when the top bit is 0 or the width is 0. (As
64-bit patterns they also agree at width 64.) 42_extract.md marks item 3 as derived from R90 and R91. -/
def Obligations.ExtractionLaws : Prop :=
  (∀ (word : Word) (lsb : Nat) (s : State), lsb ≤ 64 →
    exec (.getu word 0 lsb) s = .next (s.setOutputs (.ok 0))) ∧
  (∀ s : State, exec (.getu 0xFF 4 4) s = .next (s.setOutputs (.ok 0x0F)) ∧
    exec (.gets 0xFF 4 4) s = .next (s.setOutputs (.ok (BitVec.ofInt 64 (-1))))) ∧
  (∀ (word : Word) (width lsb : Nat) (s : State), width ≤ 64 → width + lsb ≤ 64 →
    ∃ u g : Word,
      exec (.getu word width lsb) s = .next (s.setOutputs (.ok u)) ∧
      exec (.gets word width lsb) s = .next (s.setOutputs (.ok g)) ∧
      u.toNat = word.toNat / 2 ^ lsb % 2 ^ width ∧
      g.toInt = (if width = 0 ∨ word.getLsbD (lsb + width - 1) = false then (u.toNat : Int)
        else (u.toNat : Int) - 2 ^ width) ∧
      ((u.toNat : Int) = g.toInt ↔ width = 0 ∨ word.getLsbD (lsb + width - 1) = false))

/-- The two-shift sign extension (42_extract.md R91; program P3 of 95_test_vectors.md): GETS is SHLS and then SHRS on its
result. -/
def Obligations.GetsIsTwoShifts : Prop :=
  ∀ (word : Word) (width lsb : Nat) (s : State), width ≤ 64 → width + lsb ≤ 64 →
    ∃ v : Word, exec (.shls word (64 - (width + lsb))) s = .next (s.setOutputs (.ok v)) ∧
      exec (.shrs v (64 - width)) s = exec (.gets word width lsb) s

/-! ## Insertion -/

/-- 43_insert.md R100, NEWU: CONTRACT first, OVERFLOW second; else bit by bit the value inside the field and the word
outside it. -/
def Obligations.NewuInsertsUnsigned : Prop :=
  (∀ r : Request, r.op = 0x8 → decode r = .instr (.newu r.a r.width.toNat r.lsb.toNat r.b)) ∧
  (∀ (word value : Word) (width lsb : Nat) (s : State), ¬ (width ≤ 64 ∧ width + lsb ≤ 64) →
    exec (.newu word width lsb value) s = .fault .contract) ∧
  (∀ (word value : Word) (width lsb : Nat) (s : State), width ≤ 64 → width + lsb ≤ 64 → 2 ^ width - 1 < value.toNat →
    exec (.newu word width lsb value) s = .next (s.setOutputs .overflow)) ∧
  (∀ (word value : Word) (width lsb : Nat) (s : State), width ≤ 64 → width + lsb ≤ 64 → value.toNat ≤ 2 ^ width - 1 →
    ∃ v : Word, exec (.newu word width lsb value) s = .next (s.setOutputs (.ok v)) ∧
      ∀ i, i < 64 → v.getLsbD i =
        if lsb ≤ i ∧ i < lsb + width then value.getLsbD (i - lsb) else word.getLsbD i)

/-- 43_insert.md R101, NEWS: as NEWU with the signed fit; the bits above the field are kept, never filled with the sign. -/
def Obligations.NewsInsertsSigned : Prop :=
  (∀ r : Request, r.op = 0x9 → decode r = .instr (.news r.a r.width.toNat r.lsb.toNat r.b)) ∧
  (∀ (word value : Word) (width lsb : Nat) (s : State), ¬ (width ≤ 64 ∧ width + lsb ≤ 64) →
    exec (.news word width lsb value) s = .fault .contract) ∧
  (∀ (word value : Word) (lsb : Nat) (s : State), lsb ≤ 64 → value ≠ 0 →
    exec (.news word 0 lsb value) s = .next (s.setOutputs .overflow)) ∧
  (∀ (word : Word) (lsb : Nat) (s : State), lsb ≤ 64 →
    exec (.news word 0 lsb 0) s = .next (s.setOutputs (.ok word))) ∧
  (∀ (word value : Word) (width lsb : Nat) (s : State), 1 ≤ width → width ≤ 64 → width + lsb ≤ 64 →
    (value.toInt < -(2 : Int) ^ (width - 1) ∨ (2 : Int) ^ (width - 1) - 1 < value.toInt) →
    exec (.news word width lsb value) s = .next (s.setOutputs .overflow)) ∧
  (∀ (word value : Word) (width lsb : Nat) (s : State), 1 ≤ width → width ≤ 64 → width + lsb ≤ 64 →
    -(2 : Int) ^ (width - 1) ≤ value.toInt → value.toInt ≤ (2 : Int) ^ (width - 1) - 1 →
    ∃ v : Word, exec (.news word width lsb value) s = .next (s.setOutputs (.ok v)) ∧
      ∀ i, i < 64 → v.getLsbD i =
        if lsb ≤ i ∧ i < lsb + width then value.getLsbD (i - lsb) else word.getLsbD i)

/-- The unsigned round trip (43_insert.md R104 item 1): what NEWU inserts, GETU reads back. -/
def Obligations.InsertThenExtractUnsigned : Prop :=
  ∀ (word value : Word) (width lsb : Nat) (s t : State), width ≤ 64 → width + lsb ≤ 64 → fitsu (uint value) width = true →
    ∃ v : Word, exec (.newu word width lsb value) s = .next (s.setOutputs (.ok v)) ∧
      exec (.getu v width lsb) t = .next (t.setOutputs (.ok value))

/-- The signed round trip (43_insert.md R104 item 2): what NEWS inserts, GETS reads back. -/
def Obligations.InsertThenExtractSigned : Prop :=
  ∀ (word value : Word) (width lsb : Nat) (s t : State), width ≤ 64 → width + lsb ≤ 64 → fitss (sint value) width = true →
    ∃ v : Word, exec (.news word width lsb value) s = .next (s.setOutputs (.ok v)) ∧
      exec (.gets v width lsb) t = .next (t.setOutputs (.ok value))

/-- 00_scope.md R7: a field of width 0 always reads as 0 and can only be assigned the value 0. -/
def Obligations.WidthZeroField : Prop :=
  ∀ (word : Word) (lsb : Nat) (s : State), lsb ≤ 64 →
    exec (.getu word 0 lsb) s = .next (s.setOutputs (.ok 0)) ∧
    exec (.gets word 0 lsb) s = .next (s.setOutputs (.ok 0)) ∧
    exec (.newu word 0 lsb 0) s = .next (s.setOutputs (.ok word)) ∧
    exec (.news word 0 lsb 0) s = .next (s.setOutputs (.ok word)) ∧
    ∀ value : Word, value ≠ 0 →
      exec (.newu word 0 lsb value) s = .next (s.setOutputs .overflow) ∧
      exec (.news word 0 lsb value) s = .next (s.setOutputs .overflow)

/-! ## Refinement -/

/-- For every request, all sixteen codes and every port value, the block's status is the spec's table of conditions and its
result is the rules' value formulas in whole-number arithmetic (`Request.specStatus`, `Request.specResult`), not only what
the shift-and-mask mechanisms happen to give. -/
def Obligations.MechanismsGiveValueFormulas : Prop :=
  ∀ r : Request, (eval r).status = r.specStatus ∧
    ∀ v : Word, eval r = .ok v ↔ r.specStatus = .ok ∧ r.specResult = some v

/-! ## The host: assembler and programs -/

/-- The literal ranges of 30_encoding.md R59: a request is emitted exactly when every literal is in its operand's range,
with the literals on the operation's ports and 0 on the rest (R58). -/
def Obligations.AssemblerLiteralRanges : Prop :=
  (∀ (results : Nat → Option Word) (m : Mnemonic) (v w : Int), m = .shlu ∨ m = .shru ∨ m = .fitsu →
    ∀ r : Request, assemble results ⟨m, [.literal v, .literal w]⟩ = .ok r ↔
      0 ≤ v ∧ v < 2 ^ 64 ∧ 0 ≤ w ∧ w < 2 ^ 32 ∧
      r = { op := m.code, a := BitVec.ofInt 64 v, b := 0, width := BitVec.ofInt 32 w, lsb := 0 }) ∧
  (∀ (results : Nat → Option Word) (m : Mnemonic) (v w : Int), m = .shls ∨ m = .shrs ∨ m = .fitss →
    ∀ r : Request, assemble results ⟨m, [.literal v, .literal w]⟩ = .ok r ↔
      -(2 : Int) ^ 63 ≤ v ∧ v < 2 ^ 64 ∧ 0 ≤ w ∧ w < 2 ^ 32 ∧
      r = { op := m.code, a := BitVec.ofInt 64 v, b := 0, width := BitVec.ofInt 32 w, lsb := 0 }) ∧
  (∀ (results : Nat → Option Word) (m : Mnemonic) (v w l : Int), m = .getu ∨ m = .gets →
    ∀ r : Request, assemble results ⟨m, [.literal v, .literal w, .literal l]⟩ = .ok r ↔
      0 ≤ v ∧ v < 2 ^ 64 ∧ 0 ≤ w ∧ w < 2 ^ 32 ∧ 0 ≤ l ∧ l < 2 ^ 32 ∧
      r = { op := m.code, a := BitVec.ofInt 64 v, b := 0, width := BitVec.ofInt 32 w, lsb := BitVec.ofInt 32 l }) ∧
  (∀ (results : Nat → Option Word) (m : Mnemonic) (v w l x : Int), m = .newu ∨ m = .news →
    ∀ r : Request, assemble results ⟨m, [.literal v, .literal w, .literal l, .literal x]⟩ = .ok r ↔
      0 ≤ v ∧ v < 2 ^ 64 ∧ 0 ≤ w ∧ w < 2 ^ 32 ∧ 0 ≤ l ∧ l < 2 ^ 32 ∧
      (if m = .newu then 0 else -(2 : Int) ^ 63) ≤ x ∧ x < 2 ^ 64 ∧
      r = { op := m.code, a := BitVec.ofInt 64 v, b := BitVec.ofInt 64 x, width := BitVec.ofInt 32 w,
            lsb := BitVec.ofInt 32 l })

/-- What the assembler emits has the code 30_encoding.md R51 gives its mnemonic and decodes to that operation, well formed,
so no assembled request is ILLEGAL (R51, R58, R60; 60_exceptions.md R113). -/
def Obligations.AssembledRequestsAreLegal : Prop :=
  ∀ (results : Nat → Option Word) (q : AsmRequest) (r : Request), assemble results q = .ok r →
    (q.mnemonic = .shlu → r.op = 0x0 ∧ ∃ n amount, decode r = .instr (.shlu n amount)) ∧
    (q.mnemonic = .shru → r.op = 0x1 ∧ ∃ n amount, decode r = .instr (.shru n amount)) ∧
    (q.mnemonic = .shls → r.op = 0x2 ∧ ∃ n amount, decode r = .instr (.shls n amount)) ∧
    (q.mnemonic = .shrs → r.op = 0x3 ∧ ∃ n amount, decode r = .instr (.shrs n amount)) ∧
    (q.mnemonic = .fitsu → r.op = 0x4 ∧ ∃ value width, decode r = .instr (.fitsu value width)) ∧
    (q.mnemonic = .fitss → r.op = 0x5 ∧ ∃ value width, decode r = .instr (.fitss value width)) ∧
    (q.mnemonic = .getu → r.op = 0x6 ∧ ∃ word width lsb, decode r = .instr (.getu word width lsb)) ∧
    (q.mnemonic = .gets → r.op = 0x7 ∧ ∃ word width lsb, decode r = .instr (.gets word width lsb)) ∧
    (q.mnemonic = .newu → r.op = 0x8 ∧ ∃ word width lsb value, decode r = .instr (.newu word width lsb value)) ∧
    (q.mnemonic = .news → r.op = 0x9 ∧ ∃ word width lsb value, decode r = .instr (.news word width lsb value)) ∧
    (∃ i, decode r = .instr i ∧ i.wellFormed = true) ∧ eval r ≠ .illegal

/-- A request of a host program is evaluated by the block like any other: its outcome is `eval` of the request, recorded
under its name and no other; the host goes on after OK and OVERFLOW and stops on CONTRACT (30_encoding.md R61, 10_state.md
R31, 60_exceptions.md R116, R117). A request with a reserved code, which only a host without the assembler can issue, is
recorded as ILLEGAL. Where the host's state already has an outcome of the name, that the name then means the later one is
the model's choice (log entry 7, DESIGN CHOICE), not R61's. -/
def Obligations.HostIssuesRequests : Prop :=
  (∀ (program : List HostStmt) (h : HostState) (k : Nat) (q : AsmRequest) (r : Request),
    h.stop = none → program[h.pc]? = some (.request k q) → assemble h.result q = .ok r →
    (hostStep program h).outcome k = some (eval r) ∧
    (∀ j, j ≠ k → (hostStep program h).outcome j = h.outcome j) ∧
    ((eval r = .overflow ∨ ∃ v, eval r = .ok v) →
      (hostStep program h).stop = none ∧ (hostStep program h).pc = h.pc + 1) ∧
    (eval r = .contract → (hostStep program h).stop = some .contract ∧ (hostStep program h).pc = h.pc)) ∧
  (∀ (h : HostState) (k : Nat) (r : Request), 0xA ≤ r.op.toNat → (h.issue k r).outcome k = some .illegal)

/-- An invariant of every host program: while it runs, no outcome it holds is CONTRACT or ILLEGAL, so no value can come
from one (60_exceptions.md R113, R116; 30_encoding.md R61). A program that stopped otherwise than on CONTRACT keeps it
too. -/
def Obligations.RunningProgramHoldsNoFault : Prop :=
  ∀ (program : List HostStmt) (h : HostState),
    (h.stop ≠ some .contract → h.stop ≠ some .illegal →
      ∀ x ∈ h.outcomes, x.2.status = .ok ∨ x.2.status = .overflow) →
    ((hostStep program h).stop ≠ some .contract → (hostStep program h).stop ≠ some .illegal →
      ∀ x ∈ (hostStep program h).outcomes, x.2.status = .ok ∨ x.2.status = .overflow)

/-- `if %k.status == OVERFLOW goto L` (30_encoding.md R61): after an overflow the program goes on at L's label, after any
other outcome with the next statement, whether L is defined or not. That the first label of the name counts, that a jump to
a name without a label stops the program, and that `%k` names the latest outcome issued under it are the model's choices
(log entry 7, DESIGN CHOICE), not R61's. -/
def Obligations.HostBranchesOnOverflow : Prop :=
  ∀ (program : List HostStmt) (h : HostState) (k : Nat) (target : String) (o : BlockOutcome),
    h.stop = none → program[h.pc]? = some (.branch k .overflow target) → h.outcome k = some o →
    (o ≠ .overflow → hostStep program h = h.goTo (h.pc + 1)) ∧
    (∀ before after : List HostStmt, o = .overflow → program = before ++ .label target :: after → .label target ∉ before →
      hostStep program h = h.goTo before.length) ∧
    (o = .overflow → .label target ∉ program → hostStep program h = h.stopWith (.noLabel target))

/-- A stopped program stays stopped, exactly as it is, however long it runs: a fault is "never cleared by a later step"
(60_exceptions.md R116). -/
def Obligations.StoppedProgramStaysStopped : Prop :=
  ∀ (program : List HostStmt) (n : Nat) (h : HostState), h.stop ≠ none → hostRun program n h = h
end

