-- ==== Sys2Proof/Laws/Bits.lean ====
section
/-! SUPPORT. The shift primitives and the masks, bit by bit: what 40_shift.md R70, R71 and R73 say of each result bit, and
which bits the masks of 42_extract.md R90 and 43_insert.md R100, R101 hold. -/

namespace Sys2Proof.Machine

theorem shl64_bit (v : Word) (amount : Nat) {i : Nat} (hi : i < 64) :
    (shl64 v amount).getLsbD i = (decide (amount ≤ i) && v.getLsbD (i - amount)) := by
  unfold shl64
  split
  · simp; omega
  · rw [BitVec.getLsbD_shiftLeft]
    by_cases ha : amount ≤ i
    · simp [hi, ha, show ¬ i < amount by omega]
    · simp [ha, show i < amount by omega]

theorem shr64_bit (v : Word) (amount i : Nat) :
    (shr64 v amount).getLsbD i = v.getLsbD (amount + i) := by
  unfold shr64
  split
  · subst_vars; simp [BitVec.getLsbD_of_ge]
  · simp

theorem sar64_bit (v : Word) {amount : Nat} (h : amount < 64) {i : Nat} (hi : i < 64) :
    (sar64 v amount).getLsbD i = v.getLsbD (min (i + amount) 63) := by
  unfold sar64
  rw [if_neg (by omega), BitVec.getLsbD_sshiftRight]
  simp only [show ¬ 64 ≤ i by omega, decide_false, Bool.not_false, Bool.true_and]
  split
  · rw [Nat.min_eq_left (by omega), Nat.add_comm]
  · rw [Nat.min_eq_right (by omega), BitVec.msb_eq_getLsbD_last]

theorem sar64_at_64 (v : Word) : sar64 v 64 = 0 := rfl

theorem ones64_bit {i : Nat} (hi : i < 64) : ones64.getLsbD i = true := by
  have : ones64 = BitVec.allOnes 64 := by decide
  rw [this, BitVec.getLsbD_allOnes, decide_eq_true hi]

/-- `shr64(ONES64, 64 − width)` has ones exactly at `[0, width)` (43_insert.md R101). -/
theorem lowOnes_bit {width : Nat} (h : width ≤ 64) (i : Nat) :
    (shr64 ones64 (64 - width)).getLsbD i = decide (i < width) := by
  rw [shr64_bit]
  by_cases hi : i < width
  · simp [hi, ones64_bit (show 64 - width + i < 64 by omega)]
  · simp [hi, BitVec.getLsbD_of_ge _ _ (show 64 ≤ 64 - width + i by omega)]

/-- The field mask has ones exactly at `[lsb, lsb+width)` (42_extract.md R90). -/
theorem fieldMask_bit {width lsb : Nat} (h : width + lsb ≤ 64) {i : Nat} (hi : i < 64) :
    (fieldMask width lsb).getLsbD i = (decide (lsb ≤ i) && decide (i < lsb + width)) := by
  unfold fieldMask
  rw [shl64_bit _ _ hi, lowOnes_bit (by omega)]
  rw [Bool.eq_iff_iff]; simp; omega

/-- The keep mask has zeros exactly at `[lsb, lsb+width)` (43_insert.md R100). -/
theorem keepMask_bit {width lsb : Nat} (h : width + lsb ≤ 64) {i : Nat} (hi : i < 64) :
    (keepMask width lsb).getLsbD i = !(decide (lsb ≤ i) && decide (i < lsb + width)) := by
  unfold keepMask
  rw [BitVec.getLsbD_or, shl64_bit _ _ hi, ones64_bit (by omega), lowOnes_bit (by omega)]
  rw [Bool.eq_iff_iff]; simp; omega

end Sys2Proof.Machine
end

