-- ==== Sys2Proof/Laws/Fit.lean ====
section
/-! SUPPORT. The fit predicates as inequalities (41_fit.md R80, R81). -/

namespace Sys2Proof.Machine

theorem fitsu_iff (value width : Nat) : fitsu value width = true ↔ value < 2 ^ width := by
  have := Nat.two_pow_pos width
  simp only [fitsu, decide_eq_true_eq]
  omega

theorem fitss_zero_iff (value : Int) : fitss value 0 = true ↔ value = 0 := by
  simp [fitss]

theorem fitss_iff (value : Int) {width : Nat} (h : width ≠ 0) :
    fitss value width = true ↔ -(2 : Int) ^ (width - 1) ≤ value ∧ value < (2 : Int) ^ (width - 1) := by
  simp only [fitss, if_neg h, Bool.and_eq_true, decide_eq_true_eq]
  omega

end Sys2Proof.Machine
end

