-- ==== Sys2Proof/Laws/State.lean ====
section
/-! SUPPORT. One lemma per field per update of the state and of the host's state, so that no proof unfolds a record
update. -/

namespace Sys2Proof.Machine

@[simp] theorem State.drive_ports (s : State) (r : Request) : (s.drive r).ports = r := rfl
@[simp] theorem State.drive_outputs (s : State) (r : Request) : (s.drive r).outputs = eval r := rfl
@[simp] theorem State.setOutputs_ports (s : State) (o : BlockOutcome) : (s.setOutputs o).ports = s.ports := rfl
@[simp] theorem State.setOutputs_outputs (s : State) (o : BlockOutcome) : (s.setOutputs o).outputs = o := rfl

/-- Setting the outputs twice keeps the later outcome. -/
@[simp] theorem State.setOutputs_setOutputs (s : State) (o o' : BlockOutcome) : (s.setOutputs o).setOutputs o' = s.setOutputs o' := rfl

/-- Setting the outputs to what they carry changes nothing. -/
theorem State.setOutputs_self (s : State) : s.setOutputs s.outputs = s := rfl

/-- Driving forgets what the ports carried before. -/
@[simp] theorem State.drive_drive (s : State) (r r' : Request) : (s.drive r).drive r' = s.drive r' := rfl
@[simp] theorem State.setOutputs_drive (s : State) (o : BlockOutcome) (r : Request) :
    (s.setOutputs o).drive r = s.drive r := rfl

@[simp] theorem State.withFetchWord_ports (s : State) (nbits w : Nat) :
    (s.withFetchWord nbits w).ports = tableRequest nbits w := rfl
@[simp] theorem State.withFetchWord_outputs (s : State) (nbits w : Nat) :
    (s.withFetchWord nbits w).outputs = eval (tableRequest nbits w) := rfl

@[simp] theorem State.after_next (block t : State) : block.after (.next t) = t := rfl
@[simp] theorem State.after_fault (block : State) (f : Fault) : block.after (.fault f) = block := rfl
@[simp] theorem State.after_refused (block : State) (e : Refusal) : block.after (.refused e) = block := rfl

@[simp] theorem HostState.goTo_pc (h : HostState) (pc : Nat) : (h.goTo pc).pc = pc := rfl
@[simp] theorem HostState.goTo_outcomes (h : HostState) (pc : Nat) : (h.goTo pc).outcomes = h.outcomes := rfl
@[simp] theorem HostState.goTo_stop (h : HostState) (pc : Nat) : (h.goTo pc).stop = h.stop := rfl
@[simp] theorem HostState.goTo_block (h : HostState) (pc : Nat) : (h.goTo pc).block = h.block := rfl
@[simp] theorem HostState.stopWith_pc (h : HostState) (x : HostStop) : (h.stopWith x).pc = h.pc := rfl
@[simp] theorem HostState.stopWith_outcomes (h : HostState) (x : HostStop) : (h.stopWith x).outcomes = h.outcomes := rfl
@[simp] theorem HostState.stopWith_stop (h : HostState) (x : HostStop) : (h.stopWith x).stop = some x := rfl
@[simp] theorem HostState.stopWith_block (h : HostState) (x : HostStop) : (h.stopWith x).block = h.block := rfl
@[simp] theorem HostState.record_pc (h : HostState) (k : Nat) (o : BlockOutcome) : (h.record k o).pc = h.pc := rfl
@[simp] theorem HostState.record_outcomes (h : HostState) (k : Nat) (o : BlockOutcome) :
    (h.record k o).outcomes = (k, o) :: h.outcomes := rfl
@[simp] theorem HostState.record_stop (h : HostState) (k : Nat) (o : BlockOutcome) : (h.record k o).stop = h.stop := rfl
@[simp] theorem HostState.record_block (h : HostState) (k : Nat) (o : BlockOutcome) : (h.record k o).block = h.block := rfl

end Sys2Proof.Machine
end

