-- ==== Sys2Proof/Laws/Ops.lean ====
section
/-! SUPPORT. What the shared operations can do, said once: ending a request, the four families' outcomes, and the step.
Proofs cite these and do not unfold the operations. -/

namespace Sys2Proof.Machine

/-- The host observes exactly the outcome a request was completed with (10_state.md R28). -/
@[simp] theorem observe_complete (o : BlockOutcome) (s : State) : observe (complete o s) = o := by
  cases o <;> rfl

/-- If a request ends in a next state, its outcome is OK or OVERFLOW, and the state is the old one with it on the outputs. -/
theorem complete_next {o : BlockOutcome} {s t : State} (h : complete o s = .next t) :
    t = s.setOutputs o ∧ ((∃ v, o = .ok v) ∨ o = .overflow) := by
  cases o <;> cases h
  · exact ⟨rfl, .inl ⟨_, rfl⟩⟩
  · exact ⟨rfl, .inr rfl⟩

theorem complete_eq_fault {o : BlockOutcome} {s : State} {f : Fault} : complete o s = .fault f ↔ o = .contract := by
  cases o <;> cases f <;> simp [complete]

theorem complete_eq_refused {o : BlockOutcome} {s : State} {e : Refusal} :
    complete o s = .refused e ↔ o = .illegal ∧ e = .illegal := by
  cases o <;> simp [complete, eq_comm]

theorem complete_ok (v : Word) (s : State) : complete (.ok v) s = .next (s.setOutputs (.ok v)) := rfl
theorem complete_overflow (s : State) : complete .overflow s = .next (s.setOutputs .overflow) := rfl
theorem complete_contract (s : State) : complete .contract s = .fault .contract := rfl

/-- A shift: CONTRACT above 64, else the primitive's result (40_shift.md R74). -/
theorem shiftOutcome_cases (primitive : Word → Nat → Word) (n : Word) (amount : Nat) :
    (64 < amount ∧ shiftOutcome primitive n amount = .contract) ∨
    (amount ≤ 64 ∧ shiftOutcome primitive n amount = .ok (primitive n amount)) := by
  unfold shiftOutcome
  split
  · exact .inl ⟨‹_›, rfl⟩
  · exact .inr ⟨by omega, rfl⟩

/-- A fit test: CONTRACT above 64, else the answer as a word (41_fit.md R82). -/
theorem fitOutcome_cases (width : Nat) (answer : Nat → Bool) :
    (64 < width ∧ fitOutcome width answer = .contract) ∨
    (width ≤ 64 ∧ fitOutcome width answer = .ok (boolWord (answer width))) := by
  unfold fitOutcome
  split
  · exact .inl ⟨‹_›, rfl⟩
  · exact .inr ⟨by omega, rfl⟩

theorem validField_iff (width lsb : Nat) : validField width lsb = true ↔ width ≤ 64 ∧ width + lsb ≤ 64 := by
  simp [validField]

/-- An extraction: CONTRACT when the descriptor is invalid, else the extracted word (42_extract.md R92, R93). -/
theorem extractOutcome_cases (extract : Word → Nat → Nat → Word) (word : Word) (width lsb : Nat) :
    (validField width lsb = false ∧ extractOutcome extract word width lsb = .contract) ∨
    (validField width lsb = true ∧ extractOutcome extract word width lsb = .ok (extract word width lsb)) := by
  unfold extractOutcome
  cases validField width lsb <;> simp

/-- An insertion: CONTRACT, then OVERFLOW, then the word (43_insert.md R102). -/
theorem insertOutcome_cases (insert : Word → Nat → Nat → Word → Word) (fits : Nat → Bool) (word : Word) (width lsb : Nat)
    (value : Word) :
    (validField width lsb = false ∧ insertOutcome insert fits word width lsb value = .contract) ∨
    (validField width lsb = true ∧ fits width = false ∧ insertOutcome insert fits word width lsb value = .overflow) ∨
    (validField width lsb = true ∧ fits width = true ∧
      insertOutcome insert fits word width lsb value = .ok (insert word width lsb value)) := by
  unfold insertOutcome
  cases validField width lsb <;> cases fits width <;> simp

/-- The outcome of an operation: what its meaning completes the request with. -/
def outcomeOf : Instr → BlockOutcome
  | .shlu n amount => shiftOutcome shl64 n amount
  | .shru n amount => shiftOutcome shr64 n amount
  | .shls n amount => shiftOutcome shl64 n amount
  | .shrs n amount => shiftOutcome sar64 n amount
  | .fitsu value width => fitOutcome width (fitsu (uint value))
  | .fitss value width => fitOutcome width (fitss (sint value))
  | .getu word width lsb => extractOutcome getUnsigned word width lsb
  | .gets word width lsb => extractOutcome getSigned word width lsb
  | .newu word width lsb value => insertOutcome newUnsigned (fitsu (uint value)) word width lsb value
  | .news word width lsb value => insertOutcome newSigned (fitss (sint value)) word width lsb value

/-- The outcome a decoded request is completed with. -/
def decodedOutcome : Decoded → BlockOutcome
  | .instr i => outcomeOf i
  | .reserved _ => .illegal

/-- Every operation ends in `complete` with an outcome that does not depend on the state (10_state.md R24). -/
theorem exec_eq_complete (i : Instr) (s : State) : exec i s = complete (outcomeOf i) s := by
  cases i <;> rfl

/-- So does every step: it completes the request on the ports with an outcome of those ports alone. -/
theorem step_eq_complete (s : State) : step s = complete (decodedOutcome (decode s.ports)) s := by
  unfold step evaluate
  cases decode s.ports with
  | instr i => exact exec_eq_complete i s
  | reserved op => rfl

theorem eval_eq_outcome (r : Request) : eval r = decodedOutcome (decode r) := by
  change observe (step { ports := r, outputs := .ok 0 }) = _
  simp [step_eq_complete]

/-- A step completes the request on the ports with its outcome (10_state.md R28). -/
theorem step_eq_complete_eval (s : State) : step s = complete (eval s.ports) s := by
  rw [step_eq_complete, eval_eq_outcome]

/-- What a step that answers a next state does: the outputs become the outcome of the inputs, which is OK or OVERFLOW, and
nothing else changes. -/
theorem step_next {s t : State} (h : step s = .next t) :
    t = s.setOutputs (eval s.ports) ∧ ((∃ v, eval s.ports = .ok v) ∨ eval s.ports = .overflow) :=
  complete_next (step_eq_complete_eval s ▸ h)

end Sys2Proof.Machine
end

