-- ==== Sys2Proof/Laws/Host.lean ====
section
/-! SUPPORT. What issuing a request does to the host's state, said once. -/

namespace Sys2Proof.Machine

/-- An evaluation of a just driven block leaves it as driven, in whichever way it ends: its outputs already are the outcome
(70_reset_and_hazards.md R130). -/
theorem State.drive_after_step (s : State) (r : Request) : (s.drive r).after (step (s.drive r)) = s.drive r := by
  rw [step_eq_complete_eval]
  change (s.drive r).after (complete (eval r) (s.drive r)) = s.drive r
  cases h : eval r <;> simp [complete, State.setOutputs, State.drive, h]

/-- Issuing a request: the block is driven with it, its outcome is recorded, and the host does what its status asks. -/
theorem HostState.issue_eq (h : HostState) (k : Nat) (r : Request) :
    h.issue k r = ({ h with block := h.block.drive r }.record k (eval r)).afterStatus (eval r).status := by
  have observed : observe (step (h.block.drive r)) = eval r := by
    rw [step_eq_complete_eval, observe_complete, State.drive_ports]
  simp only [HostState.issue, State.drive_after_step, observed]

@[simp] theorem HostState.afterStatus_block (h : HostState) (status : Status) : (h.afterStatus status).block = h.block := by
  cases status <;> rfl

@[simp] theorem HostState.afterStatus_outcomes (h : HostState) (status : Status) :
    (h.afterStatus status).outcomes = h.outcomes := by
  cases status <;> rfl

end Sys2Proof.Machine
end

