-- ==== Sys2Proof/Laws/PerInstr.lean ====
section
/-! SUPPORT. Statements made per instruction, about the instruction as syntax. -/

namespace Sys2Proof.Laws

/-- The encoding of an instruction is never a reserved code, and what it decodes to is well formed (30_encoding.md R51,
R56). -/
def EncodesLegally.Statement (i : Instr) : Prop :=
  (encode i).op.toNat ≤ 0x9 ∧ ∃ j, decode (encode i) = .instr j ∧ j.wellFormed = true

theorem fitsPort32_toNat (v : Port32) : fitsPort32 v.toNat = true := by
  simpa [fitsPort32] using v.isLt

theorem EncodesLegally.shlu (n : Word) (amount : Nat) : EncodesLegally.Statement (.shlu n amount) :=
  ⟨Nat.le_of_ble_eq_true rfl, _, rfl, fitsPort32_toNat _⟩

theorem EncodesLegally.shru (n : Word) (amount : Nat) : EncodesLegally.Statement (.shru n amount) :=
  ⟨Nat.le_of_ble_eq_true rfl, _, rfl, fitsPort32_toNat _⟩

theorem EncodesLegally.shls (n : Word) (amount : Nat) : EncodesLegally.Statement (.shls n amount) :=
  ⟨Nat.le_of_ble_eq_true rfl, _, rfl, fitsPort32_toNat _⟩

theorem EncodesLegally.shrs (n : Word) (amount : Nat) : EncodesLegally.Statement (.shrs n amount) :=
  ⟨Nat.le_of_ble_eq_true rfl, _, rfl, fitsPort32_toNat _⟩

theorem EncodesLegally.fitsu (value : Word) (width : Nat) : EncodesLegally.Statement (.fitsu value width) :=
  ⟨Nat.le_of_ble_eq_true rfl, _, rfl, fitsPort32_toNat _⟩

theorem EncodesLegally.fitss (value : Word) (width : Nat) : EncodesLegally.Statement (.fitss value width) :=
  ⟨Nat.le_of_ble_eq_true rfl, _, rfl, fitsPort32_toNat _⟩

theorem EncodesLegally.getu (word : Word) (width lsb : Nat) : EncodesLegally.Statement (.getu word width lsb) :=
  ⟨Nat.le_of_ble_eq_true rfl, _, rfl, Bool.and_eq_true_iff.2 ⟨fitsPort32_toNat _, fitsPort32_toNat _⟩⟩

theorem EncodesLegally.gets (word : Word) (width lsb : Nat) : EncodesLegally.Statement (.gets word width lsb) :=
  ⟨Nat.le_of_ble_eq_true rfl, _, rfl, Bool.and_eq_true_iff.2 ⟨fitsPort32_toNat _, fitsPort32_toNat _⟩⟩

theorem EncodesLegally.newu (word : Word) (width lsb : Nat) (value : Word) :
    EncodesLegally.Statement (.newu word width lsb value) :=
  ⟨Nat.le_of_ble_eq_true rfl, _, rfl, Bool.and_eq_true_iff.2 ⟨fitsPort32_toNat _, fitsPort32_toNat _⟩⟩

theorem EncodesLegally.news (word : Word) (width lsb : Nat) (value : Word) :
    EncodesLegally.Statement (.news word width lsb value) :=
  ⟨Nat.le_of_ble_eq_true rfl, _, rfl, Bool.and_eq_true_iff.2 ⟨fitsPort32_toNat _, fitsPort32_toNat _⟩⟩

end Sys2Proof.Laws
end

