-- ==== Sys2Proof/Tests/Slice0.lean ====
section
/-! SUPPORT. The model's own tests. Expected values are the spec's: the vectors S1 to S4, V1 to V159 and the programs P1 to
P4 of 95_test_vectors.md, or words written out from 30_encoding.md R50 and R51. A theorem named witness_<Name> shows
values that meet the hypotheses of Obligations.<Name> together, clause by clause, at the edges of their ranges. -/

namespace Sys2Proof.Tests

open Sys2Proof.Machine

/-- A request, in the order of the vectors of 95_test_vectors.md section 2.4. -/
def req (op : OpCode) (a b : Word) (width lsb : Port32) : Request :=
  { op := op, a := a, b := b, width := width, lsb := lsb }

/-- The first state with a request on the ports. -/
def driven (r : Request) : State := State.reset.drive r

/-! ## Well-formedness: a term each check refuses -/

theorem test_illformed_amount :
    [Instr.shlu 1 (2 ^ 32), .shru 1 (2 ^ 32), .shls 1 (2 ^ 32), .shrs 1 (2 ^ 32)].all (fun i => !i.wellFormed) = true := by
  decide

theorem test_illformed_fit_width :
    (Instr.fitsu 1 (2 ^ 32)).wellFormed = false ∧ (Instr.fitss 1 (2 ^ 32)).wellFormed = false := by decide

theorem test_illformed_field_width :
    [Instr.getu 1 (2 ^ 32) 0, .gets 1 (2 ^ 32) 0, .newu 1 (2 ^ 32) 0 0, .news 1 (2 ^ 32) 0 0].all
      (fun i => !i.wellFormed) = true := by decide

theorem test_illformed_field_lsb :
    [Instr.getu 1 0 (2 ^ 32), .gets 1 0 (2 ^ 32), .newu 1 0 (2 ^ 32) 0, .news 1 0 (2 ^ 32) 0].all
      (fun i => !i.wellFormed) = true := by decide

/-- R54, R59: a width above 64 is a legal operand; the operation then raises CONTRACT. -/
theorem test_wellformed_out_of_range_width : (Instr.getu 1 (2 ^ 32 - 1) (2 ^ 32 - 1)).wellFormed = true := by decide

/-! ## Decoding: written requests -/

/-- R50, R51: op 0, lsb 0, width 4, b 0, a as in the example of R70. -/
theorem test_decode_shlu :
    decode (unpack 0x0000000000000000400000000000000000123456789ABCDEF) = .instr (.shlu 0x0123456789ABCDEF 4) := by decide

/-- P3 %4. -/
theorem test_decode_shru :
    decode (unpack 0x100000000000000400000000000000000F000000000000000) = .instr (.shru 0xF000000000000000 64) := by decide

/-- P3 %0. -/
theorem test_decode_shls :
    decode (unpack 0x20000000000000038000000000000000000000000000000F0) = .instr (.shls 0xF0 56) := by decide

/-- P3 %1. -/
theorem test_decode_shrs :
    decode (unpack 0x3000000000000003C0000000000000000F000000000000000) = .instr (.shrs 0xF000000000000000 60) := by decide

/-- P4 %4. -/
theorem test_decode_fitsu :
    decode (unpack 0x400000000000000400000000000000000FFFFFFFFFFFFFFFE) = .instr (.fitsu 0xFFFFFFFFFFFFFFFE 64) := by decide

/-- P2 %3. -/
theorem test_decode_fitss :
    decode (unpack 0x500000000000000040000000000000000FFFFFFFFFFFFFFF7) = .instr (.fitss 0xFFFFFFFFFFFFFFF7 4) := by decide

/-- P3 %5. -/
theorem test_decode_getu :
    decode (unpack 0x60000004100000000000000000000000000000000DEADBEEF) = .instr (.getu 0xDEADBEEF 0 65) := by decide

/-- P1 %4. -/
theorem test_decode_gets :
    decode (unpack 0x700000005000000060000000000000000FFFFFFFFFFFFFD91) = .instr (.gets 0xFFFFFFFFFFFFFD91 6 5) := by decide

/-- P1 %2. -/
theorem test_decode_newu :
    decode (unpack 0x80000000B00000035001FFFFFFFFFFFFF0000000000000591) =
      .instr (.newu 0x591 53 11 0x1FFFFFFFFFFFFF) := by decide

/-- P1 %1. -/
theorem test_decode_news :
    decode (unpack 0x90000000500000006FFFFFFFFFFFFFFEC0000000000000011) =
      .instr (.news 0x11 6 5 0xFFFFFFFFFFFFFFEC) := by decide

/-- P1 %1, the other way: the encoder writes the same request. -/
theorem test_encode_news :
    pack (encode (.news 0x11 6 5 0xFFFFFFFFFFFFFFEC)) = 0x90000000500000006FFFFFFFFFFFFFFEC0000000000000011 := by decide

/-- P3 %1: unused ports carry 0. -/
theorem test_encode_shrs :
    pack (encode (.shrs 0xF000000000000000 60)) = 0x3000000000000003C0000000000000000F000000000000000 := by decide

/-- V154, V159. -/
theorem test_decode_reserved :
    decode (req 0xA 1 2 3 4) = .reserved 0xA ∧ decode (req 0xF 1 2 3 4) = .reserved 0xF := by decide

theorem test_table_words :
    decodeTableWord 8 0x0 = some (.shlu 0 0) ∧ decodeTableWord 8 0x9 = some (.news 0 0 0 0) ∧
    decodeTableWord 8 0xA = none := by decide

theorem test_fetch_word_runs : observe (step (State.reset.withFetchWord 8 0x4)) = .ok 1 := by decide

/-! ## Meanings: at most two vectors of 95_test_vectors.md an operation -/

/-- V9. -/
theorem test_shlu_discards : eval (req 0x0 0xFFFFFFFFFFFFFFFE 0 1 0) = .ok 0xFFFFFFFFFFFFFFFC := by decide
/-- V12. -/
theorem test_shlu_contract : eval (req 0x0 5 0 0x41 0) = .contract := by decide
/-- V22. -/
theorem test_shru_zero_fill : eval (req 0x1 0xFFFFFFFFFFFFFFFE 0 1 0) = .ok 0x7FFFFFFFFFFFFFFF := by decide
/-- V21. -/
theorem test_shru_by_64 : eval (req 0x1 0x8000000000000000 0 64 0) = .ok 0 := by decide
/-- V56. -/
theorem test_shls_sign_change : eval (req 0x2 0x4000000000000000 0 1 0) = .ok 0x8000000000000000 := by decide
/-- V31. -/
theorem test_shls_by_64 : eval (req 0x2 0xFFFFFFFFFFFFFFFF 0 64 0) = .ok 0 := by decide
/-- V55. -/
theorem test_shrs_rounds_down : eval (req 0x3 0xFFFFFFFFFFFFFFFD 0 1 0) = .ok 0xFFFFFFFFFFFFFFFE := by decide
/-- V54. -/
theorem test_shrs_by_64_is_not_sign_fill : eval (req 0x3 0xFFFFFFFFFFFFFFFF 0 64 0) = .ok 0 := by decide
/-- V62. -/
theorem test_fitsu_just_above : eval (req 0x4 0x10 0 4 0) = .ok 0 := by decide
/-- V64. -/
theorem test_fitsu_width_64 : eval (req 0x4 0xFFFFFFFFFFFFFFFF 0 64 0) = .ok 1 := by decide
/-- V69. -/
theorem test_fitss_width_0 : eval (req 0x5 0 0 0 0) = .ok 1 := by decide
/-- V78. -/
theorem test_fitss_just_below : eval (req 0x5 0xFFFFFFFFFFFFFFF7 0 4 0) = .ok 0 := by decide
/-- V108. -/
theorem test_getu_middle : eval (req 0x6 0x0123456789ABCDEF 0 12 20) = .ok 0x89A := by decide
/-- V120: no 32-bit wrap. -/
theorem test_getu_no_wrap : eval (req 0x6 1 0 1 0xFFFFFFFF) = .contract := by decide
/-- V109. -/
theorem test_gets_negative : eval (req 0x7 0x0123456789ABCDEF 0 12 20) = .ok 0xFFFFFFFFFFFFF89A := by decide
/-- V95: width 0. -/
theorem test_gets_width_0 : eval (req 0x7 0xDEADBEEF 0 0 17) = .ok 0 := by decide
/-- V132. -/
theorem test_newu_top_field : eval (req 0x8 0x0123456789ABCDEF 0xAB 8 56) = .ok 0xAB23456789ABCDEF := by decide
/-- V135: CONTRACT before OVERFLOW. -/
theorem test_newu_priority : eval (req 0x8 0 0xFFFFFFFFFFFFFFFF 0x41 0) = .contract := by decide
/-- V137: no sign above the field. -/
theorem test_news_negative : eval (req 0x9 0 0xFFFFFFFFFFFFFFFF 4 4) = .ok 0xF0 := by decide
/-- V139. -/
theorem test_news_overflow : eval (req 0x9 0 0xFFFFFFFFFFFFFFF7 4 4) = .overflow := by decide

/-- V156: reserved, and its status code (R110). -/
theorem test_illegal_status : (observe (step (driven (req 0xC 1 2 3 4)))).statusO = 0b11 := by decide

/-! ## The assembler and host programs -/

/-- R59. -/
theorem test_read_literals :
    readLiteral "0xFFFF_FFFF_FFFF_FFFF".toList = some (2 ^ 64 - 1) ∧ readLiteral "-20".toList = some (-20) ∧
    readLiteral "1_000".toList = some 1000 ∧ readLiteral "1_".toList = none ∧ readLiteral "0x".toList = none := by decide

/-- R59: a hexadecimal pattern and the negative number encode the same request. -/
theorem test_hex_is_bit_pattern :
    (assemble (fun _ => none) ⟨.shls, [.literal (2 ^ 64 - 1), .literal 1]⟩).toOption =
      (assemble (fun _ => none) ⟨.shls, [.literal (-1), .literal 1]⟩).toOption ∧
    (assemble (fun _ => none) ⟨.shlu, [.literal (-1), .literal 1]⟩).toOption = none := by decide

/-- P1 %1: the written request and its packed form. -/
theorem test_assemble_news :
    ((assemble (fun _ => some 0x11) ⟨.news, [.ref 0, .literal 6, .literal 5, .literal (-20)]⟩).toOption).map pack =
      some 0x90000000500000006FFFFFFFFFFFFFFEC0000000000000011 := by decide

/-- R58: the ten mnemonics. -/
theorem test_read_mnemonics :
    ["SHLU", "SHRU", "SHLS", "SHRS", "FITSU", "FITSS", "GETU", "GETS", "NEWU", "NEWS", "MOVE"].map readMnemonic =
      [some .shlu, some .shru, some .shls, some .shrs, some .fitsu, some .fitss, some .getu, some .gets, some .newu,
        some .news, none] := by decide

/-- Lines of P2. -/
theorem test_read_lines :
    readProgram ["    %0 = NEWU 0xFFFF_0000, 4, 8, 16   ; 16 does not fit", "if %0.status == OVERFLOW goto L1",
        "L1: %4 = GETU %2, 8, 8", "goto L2", "L2: halt"] =
      some [.request 0 ⟨.newu, [.literal 0xFFFF0000, .literal 4, .literal 8, .literal 16]⟩, .branch 0 .overflow "L1",
        .label "L1", .request 4 ⟨.getu, [.ref 2, .literal 8, .literal 8]⟩, .goto "L2", .label "L2", .halt] := by decide

/-- P3 %5: the program faults at its CONTRACT request. -/
theorem test_host_stops_on_contract :
    (hostStep [.request 5 ⟨.getu, [.literal 0xDEADBEEF, .literal 0, .literal 65]⟩, .halt] HostState.start).stop =
      some .contract := by decide

/-- P2 %0: after an overflow the program goes on. -/
theorem test_host_goes_on_after_overflow :
    let h := hostStep [.request 0 ⟨.newu, [.literal 0xFFFF0000, .literal 4, .literal 8, .literal 16]⟩, .halt] HostState.start
    h.stop = none ∧ h.outcome 0 = some .overflow ∧ h.pc = 1 := by decide

/-! ## Witnesses: the hypotheses of the statements can be met -/

theorem witness_StepRunsDecodedInstruction :
    decode (driven (req 0x6 0xFF 0 4 4)).ports = .instr (.getu 0xFF 4 4) := by decide

theorem witness_OperationTable :
    (req 0x0 1 2 3 4).op = 0x0 ∧ (req 0x1 1 2 3 4).op = 0x1 ∧ (req 0x2 1 2 3 4).op = 0x2 ∧ (req 0x3 1 2 3 4).op = 0x3 ∧
    (req 0x4 1 2 3 4).op = 0x4 ∧ (req 0x5 1 2 3 4).op = 0x5 ∧ (req 0x6 1 2 3 4).op = 0x6 ∧ (req 0x7 1 2 3 4).op = 0x7 ∧
    (req 0x8 1 2 3 4).op = 0x8 ∧ (req 0x9 1 2 3 4).op = 0x9 ∧ 0xA ≤ (req 0xA 1 2 3 4).op.toNat ∧
    0xA ≤ (req 0xF 1 2 3 4).op.toNat := by decide

theorem witness_DecodeOfPackedEncode :
    (Instr.news 0xFFFFFFFFFFFFFFFF (2 ^ 32 - 1) (2 ^ 32 - 1) 1).wellFormed = true ∧ (Instr.shlu 0 0).wellFormed = true := by
  decide

theorem witness_EncodeOfDecode :
    decode (req 0x5 1 2 0xFFFFFFFF 4) = .instr (.fitss 1 (2 ^ 32 - 1)) ∧
    decode (req 0x8 1 2 3 4) = .instr (.newu 1 3 4 2) := by decide

theorem witness_OverflowExactlyOnMisfit :
    (driven (req 0x6 1 0 0 64)).ports.op = 0x6 ∧ (driven (req 0x7 1 0 0 64)).ports.op = 0x7 ∧
    (driven (req 0x8 1 0 0 64)).ports.width = 0 ∧ (driven (req 0x8 1 0 0 64)).ports.b = 0 := by decide

theorem witness_IllegalExactlyOnReservedCodes :
    observe (step (driven (req 0xA 1 2 65 4))) = .illegal ∧ 0xA ≤ (req 0xA 1 2 65 4).op.toNat := by decide

theorem witness_StatusTable :
    (observe (step (driven (req 0x8 0 1 0 0)))).statusO = 0b01 ∧ (0x9#4).toNat ≤ 0x9 ∧ (0x0#4).toNat ≤ 0x9 := by decide

theorem witness_OutcomeIsFunctionOfRequest : eval (req 0x9 0 1 1 63) = .overflow := by decide

theorem witness_UnusedInputsHaveNoEffect :
    (req 0x7 1 2 3 4).op ≠ 0x8 ∧ (req 0x7 1 2 3 4).op ≠ 0x9 ∧
    (req 0x5 1 2 3 4).op ≠ 0x6 ∧ (req 0x5 1 2 3 4).op ≠ 0x7 ∧ (req 0x5 1 2 3 4).op ≠ 0x8 ∧ (req 0x5 1 2 3 4).op ≠ 0x9 := by
  decide

theorem witness_RequestIsIdempotent :
    step (driven (req 0x6 0xFF 0 4 4)) = .next ((driven (req 0x6 0xFF 0 4 4)).setOutputs (.ok 0xF)) := rfl

theorem witness_ExecFrame :
    exec (.newu 0xFF 4 0 16) State.reset = .next (State.reset.setOutputs .overflow) ∧
    exec (.getu 0xFF 4 4) State.reset = .next (State.reset.setOutputs (.ok 0xF)) := ⟨rfl, rfl⟩

theorem witness_StepKeepsOutputsSettled :
    State.reset.Settled ∧ step State.reset = .next State.reset ∧ HostState.start.block.Settled :=
  ⟨by decide, rfl, by decide⟩

/-- R130 at the wires: a driven CONTRACT request shows status 10 before and after the host's program stops on it. -/
theorem test_outputs_follow_inputs :
    (driven (req 0x6 1 0 0 65)).outputs.statusO = 0b10 ∧
    (HostState.start.issue 0 (req 0x6 1 0 0 65)).block.outputs = .contract ∧
    (HostState.start.issue 0 (req 0xB 1 0 0 65)).block.outputs = .illegal := by decide

theorem witness_OverflowIsRecoverable :
    (driven (req 0x8 0xFF 16 4 0)).ports.overflows = true ∧
    (driven (req 0x9 0 1 0 64)).ports.overflows = true := by decide

theorem witness_ShluShiftsLeft :
    (req 0x0 1 0 65 0).op = 0x0 ∧ observe (exec (.shlu 1 65) State.reset) = .contract ∧
    observe (exec (.shlu 1 63) State.reset) = .ok 0x8000000000000000 ∧ 64 < 65 ∧ 63 < 64 := by decide

theorem witness_ShruShiftsRight :
    (req 0x1 1 0 65 0).op = 0x1 ∧ observe (exec (.shru 1 65) State.reset) = .contract ∧
    observe (exec (.shru 0x8000000000000000 63) State.reset) = .ok 1 ∧ 64 < 65 ∧ 63 < 64 := by decide

theorem witness_ShlsShiftsLeftSigned :
    (req 0x2 1 0 65 0).op = 0x2 ∧ observe (exec (.shls 1 65) State.reset) = .contract ∧
    observe (exec (.shls 1 63) State.reset) = .ok 0x8000000000000000 ∧ 64 < 65 ∧ 63 < 64 := by decide

theorem witness_ShrsShiftsRightSigned :
    (req 0x3 1 0 65 0).op = 0x3 ∧ observe (exec (.shrs 1 65) State.reset) = .contract ∧
    observe (exec (.shrs 0x8000000000000000 63) State.reset) = .ok 0xFFFFFFFFFFFFFFFF ∧ 64 < 65 ∧ 63 < 64 := by decide

theorem witness_ShrsIsFloorDivision :
    observe (exec (.shrs 0xFFFFFFFFFFFFFFFD 1) State.reset) = .ok 0xFFFFFFFFFFFFFFFE ∧ 0 < 64 ∧ 63 < 64 := by decide

theorem witness_FitsuTestsUnsignedRange :
    (req 0x4 1 0 65 0).op = 0x4 ∧ observe (exec (.fitsu 1 65) State.reset) = .contract ∧ 64 < 65 ∧
    observe (exec (.fitsu 1 0) State.reset) = .ok 0 ∧ 0 ≤ 64 ∧ 64 ≤ 64 := by decide

theorem witness_FitssTestsSignedRange :
    (req 0x5 1 0 65 0).op = 0x5 ∧ observe (exec (.fitss 1 65) State.reset) = .contract ∧ 64 < 65 ∧
    observe (exec (.fitss 0xFFFFFFFFFFFFFFFF 1) State.reset) = .ok 1 ∧ 1 ≤ 1 ∧ 1 ≤ 64 ∧ 64 ≤ 64 := by decide

theorem witness_FitPredicateLaws :
    fitsu (2 ^ 63) 63 = false ∧ 63 < 64 ∧ fitss ((2 : Int) ^ 62) 63 = false ∧ 1 ≤ 63 ∧ fitss (-1) 1 = true ∧ 1 ≤ 1 := by
  decide

theorem witness_GetuExtractsUnsigned :
    (req 0x6 1 0 0 0).op = 0x6 ∧ ¬ (0 ≤ 64 ∧ 0 + 65 ≤ 64) ∧ observe (exec (.getu 1 0 65) State.reset) = .contract ∧
    ¬ (65 ≤ 64 ∧ 65 + 0 ≤ 64) ∧ 1 ≤ 64 ∧ 1 + 63 ≤ 64 ∧
    observe (exec (.getu 0x8000000000000000 1 63) State.reset) = .ok 1 := by decide

theorem witness_GetsExtractsSigned :
    (req 0x7 1 0 0 0).op = 0x7 ∧ ¬ (1 ≤ 64 ∧ 1 + 64 ≤ 64) ∧ observe (exec (.gets 1 1 64) State.reset) = .contract ∧
    64 ≤ 64 ∧ observe (exec (.gets 1 0 64) State.reset) = .ok 0 ∧ 1 ≤ 1 ∧ 1 + 63 ≤ 64 ∧
    observe (exec (.gets 0x8000000000000000 1 63) State.reset) = .ok 0xFFFFFFFFFFFFFFFF := by decide

theorem witness_ExtractionLaws :
    64 ≤ 64 ∧ 64 + 0 ≤ 64 ∧ observe (exec (.getu 1 0 64) State.reset) = .ok 0 ∧
    observe (exec (.gets 0x8000000000000001 64 0) State.reset) = .ok 0x8000000000000001 := by decide

theorem witness_GetsIsTwoShifts :
    0 ≤ 64 ∧ 0 + 64 ≤ 64 ∧ observe (exec (.gets 0xF0 4 4) State.reset) = .ok 0xFFFFFFFFFFFFFFFF := by decide

theorem witness_NewuInsertsUnsigned :
    (req 0x8 1 0 0 0).op = 0x8 ∧ ¬ (8 ≤ 64 ∧ 8 + 57 ≤ 64) ∧ observe (exec (.newu 0 8 57 0) State.reset) = .contract ∧
    2 ^ 4 - 1 < (16#64).toNat ∧ observe (exec (.newu 0xFF 4 0 16) State.reset) = .overflow ∧
    (15#64).toNat ≤ 2 ^ 4 - 1 ∧ 4 + 60 ≤ 64 ∧ observe (exec (.newu 0 4 60 15) State.reset) = .ok 0xF000000000000000 := by
  decide

theorem witness_NewsInsertsSigned :
    (req 0x9 1 0 0 0).op = 0x9 ∧ ¬ (65 ≤ 64 ∧ 65 + 0 ≤ 64) ∧ observe (exec (.news 0 65 0 0) State.reset) = .contract ∧
    (1#64) ≠ 0 ∧ observe (exec (.news 0 0 64 1) State.reset) = .overflow ∧
    observe (exec (.news 7 0 64 0) State.reset) = .ok 7 ∧
    (2 : Int) ^ (4 - 1) - 1 < (8#64).toInt ∧ (0xFFFFFFFFFFFFFFF7#64).toInt < -(2 : Int) ^ (4 - 1) ∧
    observe (exec (.news 0 4 4 8) State.reset) = .overflow ∧
    -(2 : Int) ^ (1 - 1) ≤ (0xFFFFFFFFFFFFFFFF#64).toInt ∧ (0xFFFFFFFFFFFFFFFF#64).toInt ≤ (2 : Int) ^ (1 - 1) - 1 ∧
    1 + 63 ≤ 64 ∧ observe (exec (.news 0 1 63 0xFFFFFFFFFFFFFFFF) State.reset) = .ok 0x8000000000000000 := by decide

theorem witness_InsertThenExtractUnsigned :
    53 ≤ 64 ∧ 53 + 11 ≤ 64 ∧ fitsu (uint 0x1FFFFFFFFFFFFF) 53 = true ∧ 0 + 64 ≤ 64 ∧ fitsu (uint 0) 0 = true := by decide

theorem witness_InsertThenExtractSigned :
    6 ≤ 64 ∧ 6 + 5 ≤ 64 ∧ fitss (sint 0xFFFFFFFFFFFFFFEC) 6 = true ∧ 64 + 0 ≤ 64 ∧
    fitss (sint 0x8000000000000000) 64 = true := by decide

theorem witness_WidthZeroField :
    64 ≤ 64 ∧ (1#64) ≠ 0 ∧ observe (exec (.newu 5 0 64 1) State.reset) = .overflow ∧
    observe (exec (.newu 5 0 64 0) State.reset) = .ok 5 := by decide

theorem witness_AssemblerLiteralRanges :
    (assemble (fun _ => none) ⟨.fitsu, [.literal (2 ^ 64 - 1), .literal (2 ^ 32 - 1)]⟩).toOption =
      some (req 0x4 0xFFFFFFFFFFFFFFFF 0 0xFFFFFFFF 0) ∧
    (assemble (fun _ => none) ⟨.shrs, [.literal (-(2 : Int) ^ 63), .literal (2 ^ 32)]⟩).toOption = none ∧
    (assemble (fun _ => none) ⟨.gets, [.literal 0, .literal 0, .literal (-1)]⟩).toOption = none ∧
    (assemble (fun _ => none) ⟨.news, [.literal 0, .literal 1, .literal 2, .literal (-(2 : Int) ^ 63)]⟩).toOption =
      some (req 0x9 0 0x8000000000000000 1 2) := by decide

/-- Each mnemonic assembles, to the code of R51 (the list is in the order of its table). -/
theorem witness_AssembledRequestsAreLegal :
    [Mnemonic.shlu, .shru, .shls, .shrs, .fitsu, .fitss].map (fun m =>
        ((assemble (fun _ => none) ⟨m, [.literal 1, .literal 4]⟩).toOption).map (fun r => r.op)) =
      [some 0x0, some 0x1, some 0x2, some 0x3, some 0x4, some 0x5] ∧
    [Mnemonic.getu, .gets].map (fun m =>
        ((assemble (fun _ => none) ⟨m, [.literal 1, .literal 4, .literal 4]⟩).toOption).map (fun r => r.op)) =
      [some 0x6, some 0x7] ∧
    [Mnemonic.newu, .news].map (fun m =>
        ((assemble (fun _ => none) ⟨m, [.literal 1, .literal 4, .literal 4, .literal 1]⟩).toOption).map (fun r => r.op)) =
      [some 0x8, some 0x9] := by decide

/-- The program of the witnesses below. -/
def smallProgram : List HostStmt :=
  [.request 0 ⟨.newu, [.literal 0xFF, .literal 4, .literal 0, .literal 16]⟩, .branch 0 .overflow "L1", .goto "L1",
    .label "L1", .request 1 ⟨.getu, [.literal 1, .literal 0, .literal 65]⟩]

/-- The host's state after its first statement, which overflowed. -/
def afterOverflow : HostState :=
  { pc := 1, outcomes := [(0, .overflow)], stop := none, block := driven (req 0x8 0xFF 16 4 0) }

theorem witness_HostIssuesRequests :
    HostState.start.stop = none ∧
    smallProgram[HostState.start.pc]? =
      some (.request 0 ⟨.newu, [.literal 0xFF, .literal 4, .literal 0, .literal 16]⟩) ∧
    (assemble HostState.start.result ⟨.newu, [.literal 0xFF, .literal 4, .literal 0, .literal 16]⟩).toOption =
      some (req 0x8 0xFF 16 4 0) ∧
    eval (req 0x8 0xFF 16 4 0) = .overflow ∧ eval (req 0x6 1 0 0 65) = .contract ∧ 0xA ≤ (req 0xA 1 0 0 65).op.toNat := by
  decide

/-- The clauses after OK and after CONTRACT. -/
theorem witness_HostIssuesRequests_other :
    let stmt := fun (lsb : Int) => HostStmt.request 1 ⟨.getu, [.literal 0xFF, .literal 0, .literal lsb]⟩
    (hostStep [stmt 64] HostState.start).outcome 1 = some (.ok 0) ∧ (hostStep [stmt 64] HostState.start).pc = 1 ∧
    (hostStep [stmt 65] HostState.start).outcome 1 = some .contract ∧
    (hostStep [stmt 65] HostState.start).stop = some .contract := by decide

theorem witness_RunningProgramHoldsNoFault :
    afterOverflow.stop ≠ some .contract ∧ afterOverflow.stop ≠ some .illegal ∧
    (∀ x ∈ afterOverflow.outcomes, x.2.status = .ok ∨ x.2.status = .overflow) ∧
    (hostStep smallProgram afterOverflow).stop = none := by decide

theorem witness_HostBranchesOnOverflow :
    afterOverflow.stop = none ∧ smallProgram[afterOverflow.pc]? = some (.branch 0 .overflow "L1") ∧
    afterOverflow.outcome 0 = some .overflow ∧
    smallProgram = smallProgram.take 3 ++ .label "L1" :: smallProgram.drop 4 ∧
    HostStmt.label "L1" ∉ smallProgram.take 3 ∧ (hostStep smallProgram afterOverflow).pc = 3 := by decide

/-- The branch not taken, and the branch to a label the program does not have. -/
theorem witness_HostBranchesOnOverflow_other :
    let ok := { afterOverflow with outcomes := [(0, .ok 1)] }
    let noLabel := [HostStmt.halt, .branch 0 .overflow "L1"]
    ok.stop = none ∧ ok.outcome 0 = some (.ok 1) ∧ noLabel[ok.pc]? = some (.branch 0 .overflow "L1") ∧
    BlockOutcome.ok 1 ≠ .overflow ∧ (hostStep noLabel ok).pc = 2 ∧ (hostStep noLabel ok).stop = none ∧
    HostStmt.label "L1" ∉ noLabel ∧ (hostStep noLabel afterOverflow).stop = some (.noLabel "L1") := by decide

theorem witness_StoppedProgramStaysStopped :
    (afterOverflow.stopWith .contract).stop ≠ none := by decide

end Sys2Proof.Tests
end

/-! PROOFS. What a field operation answers once its descriptor is valid, and the fields of width 0 (00_scope.md R7). -/

namespace Sys2Proof.Machine

/-! ## Field operations on a valid descriptor -/

theorem extractOutcome_of_valid (extract : Word → Nat → Nat → Word) (word : Word) {width lsb : Nat}
    (valid : validField width lsb = true) :
    extractOutcome extract word width lsb = .ok (extract word width lsb) :=
  if_pos valid

theorem insertOutcome_of_valid (insert : Word → Nat → Nat → Word → Word) (fits : Nat → Bool) (word value : Word)
    {width lsb : Nat} (valid : validField width lsb = true) :
    insertOutcome insert fits word width lsb value =
      if fits width then .ok (insert word width lsb value) else .overflow :=
  if_pos valid

theorem exec_getu_of_valid (word : Word) {width lsb : Nat} (valid : validField width lsb = true) (s : State) :
    exec (.getu word width lsb) s = .next (s.setOutputs (.ok (getUnsigned word width lsb))) := by
  rw [exec_eq_complete, outcomeOf, extractOutcome_of_valid _ _ valid, complete_ok]

theorem exec_gets_of_valid (word : Word) {width lsb : Nat} (valid : validField width lsb = true) (s : State) :
    exec (.gets word width lsb) s = .next (s.setOutputs (.ok (getSigned word width lsb))) := by
  rw [exec_eq_complete, outcomeOf, extractOutcome_of_valid _ _ valid, complete_ok]

theorem exec_newu_of_fits (word value : Word) {width lsb : Nat} (valid : validField width lsb = true)
    (fits : fitsu (uint value) width = true) (s : State) :
    exec (.newu word width lsb value) s = .next (s.setOutputs (.ok (newUnsigned word width lsb value))) := by
  rw [exec_eq_complete, outcomeOf, insertOutcome_of_valid _ _ _ _ valid, if_pos fits, complete_ok]

theorem exec_newu_of_misfit (word value : Word) {width lsb : Nat} (valid : validField width lsb = true)
    (misfit : ¬ fitsu (uint value) width = true) (s : State) :
    exec (.newu word width lsb value) s = .next (s.setOutputs .overflow) := by
  rw [exec_eq_complete, outcomeOf, insertOutcome_of_valid _ _ _ _ valid, if_neg misfit, complete_overflow]

theorem exec_news_of_fits (word value : Word) {width lsb : Nat} (valid : validField width lsb = true)
    (fits : fitss (sint value) width = true) (s : State) :
    exec (.news word width lsb value) s = .next (s.setOutputs (.ok (newSigned word width lsb value))) := by
  rw [exec_eq_complete, outcomeOf, insertOutcome_of_valid _ _ _ _ valid, if_pos fits, complete_ok]

theorem exec_news_of_misfit (word value : Word) {width lsb : Nat} (valid : validField width lsb = true)
    (misfit : ¬ fitss (sint value) width = true) (s : State) :
    exec (.news word width lsb value) s = .next (s.setOutputs .overflow) := by
  rw [exec_eq_complete, outcomeOf, insertOutcome_of_valid _ _ _ _ valid, if_neg misfit, complete_overflow]

/-! ## Fields of width 0 -/

theorem validField_zero_width {lsb : Nat} (h : lsb ≤ 64) : validField 0 lsb = true :=
  (validField_iff 0 lsb).2 ⟨Nat.zero_le 64, by omega⟩

@[simp] theorem zero_shl64 (amount : Nat) : shl64 0#64 amount = 0#64 := by
  simp [shl64]

theorem getUnsigned_zero_width (word : Word) (lsb : Nat) : getUnsigned word 0 lsb = 0 := rfl

/-- The second shift is by 64, which gives 0 and not the sign fill (42_extract.md R91, 40_shift.md R75). -/
theorem getSigned_zero_width (word : Word) (lsb : Nat) : getSigned word 0 lsb = 0 := sar64_at_64 _

theorem keepMask_zero_width {lsb : Nat} (h : lsb ≤ 64) : keepMask 0 lsb = BitVec.allOnes 64 := by
  refine BitVec.eq_of_getLsbD_eq fun i hi => ?_
  rw [keepMask_bit (by omega) hi, BitVec.getLsbD_allOnes]
  simp only [hi, Nat.add_zero, decide_true, Bool.not_eq_true', Bool.and_eq_false_iff, decide_eq_false_iff_not]
  omega

theorem newUnsigned_zero_width_zero (word : Word) {lsb : Nat} (h : lsb ≤ 64) : newUnsigned word 0 lsb 0 = word := by
  simp only [newUnsigned, keepMask_zero_width h, BitVec.and_allOnes, BitVec.ofNat_eq_ofNat, zero_shl64, BitVec.or_zero]

theorem newSigned_zero_width_zero (word : Word) {lsb : Nat} (h : lsb ≤ 64) : newSigned word 0 lsb 0 = word := by
  simp only [newSigned, keepMask_zero_width h, BitVec.and_allOnes, BitVec.ofNat_eq_ofNat, BitVec.zero_and, zero_shl64,
    BitVec.or_zero]

theorem fitsu_zero_width_iff (value : Word) : fitsu (uint value) 0 = true ↔ value = 0 := by
  rw [fitsu_iff, pow_zero, Nat.lt_one_iff]
  exact BitVec.toNat_inj (y := 0)

theorem fitss_zero_width_iff (value : Word) : fitss (sint value) 0 = true ↔ value = 0 := by
  rw [fitss_zero_iff]
  exact BitVec.toInt_inj (y := 0)

/-- Settles O37: at width 0 a descriptor with `lsb` up to 64 is valid, extraction gives 0, and an insertion keeps every bit
of the word or overflows, by whether the value is 0. -/
theorem widthZeroField : Obligations.WidthZeroField := by
  intro word lsb s hlsb
  have valid := validField_zero_width hlsb
  refine ⟨?getu, ?gets, ?newu, ?news, fun value hvalue => ⟨?newuMisfit, ?newsMisfit⟩⟩
  case getu => rw [exec_getu_of_valid word valid, getUnsigned_zero_width]
  case gets => rw [exec_gets_of_valid word valid, getSigned_zero_width]
  case newu =>
    rw [exec_newu_of_fits word 0 valid ((fitsu_zero_width_iff 0).2 rfl), newUnsigned_zero_width_zero word hlsb]
  case news =>
    rw [exec_news_of_fits word 0 valid ((fitss_zero_width_iff 0).2 rfl), newSigned_zero_width_zero word hlsb]
  case newuMisfit => exact exec_newu_of_misfit word value valid (mt (fitsu_zero_width_iff value).1 hvalue) s
  case newsMisfit => exact exec_news_of_misfit word value valid (mt (fitss_zero_width_iff value).1 hvalue) s

end Sys2Proof.Machine

/-! PROOFS. The outcome as a function of the request alone, and of the ports its operation reads (10_state.md R28, R29). -/

namespace Sys2Proof.Machine

/-! ## What decoding reads -/

/-- An operation is decoded from its own code (30_encoding.md R51). -/
theorem encode_op_of_decode {r : Request} {i : Instr} (h : decode r = .instr i) : (encode i).op = r.op := by
  unfold decode at h
  split at h <;> cases h
  all_goals exact BitVec.eq_of_toNat_eq (Eq.symm ‹_›)

/-- Decoding reads `op`, `a` and `width`, and `lsb` and `b` only for the codes whose operation takes them
(30_encoding.md R52). -/
theorem decode_eq_of_read_ports_eq {r r' : Request} (op : r'.op = r.op) (a : r'.a = r.a) (width : r'.width = r.width)
    (lsb : r.op = 0x6 ∨ r.op = 0x7 ∨ r.op = 0x8 ∨ r.op = 0x9 → r'.lsb = r.lsb)
    (b : r.op = 0x8 ∨ r.op = 0x9 → r'.b = r.b) : decode r' = decode r := by
  unfold decode
  rw [op, a, width]
  split
  case h_7 code => rw [lsb (.inl (BitVec.eq_of_toNat_eq code))]
  case h_8 code => rw [lsb (.inr (.inl (BitVec.eq_of_toNat_eq code)))]
  case h_9 code =>
    have code : r.op = 0x8 := BitVec.eq_of_toNat_eq code
    rw [lsb (.inr (.inr (.inl code))), b (.inl code)]
  case h_10 code =>
    have code : r.op = 0x9 := BitVec.eq_of_toNat_eq code
    rw [lsb (.inr (.inr (.inr code))), b (.inr code)]
  all_goals rfl

theorem eval_eq_of_read_ports_eq {r r' : Request} (op : r'.op = r.op) (a : r'.a = r.a) (width : r'.width = r.width)
    (lsb : r.op = 0x6 ∨ r.op = 0x7 ∨ r.op = 0x8 ∨ r.op = 0x9 → r'.lsb = r.lsb)
    (b : r.op = 0x8 ∨ r.op = 0x9 → r'.b = r.b) : eval r' = eval r := by
  rw [eval_eq_outcome, eval_eq_outcome, decode_eq_of_read_ports_eq op a width lsb b]

/-! ## What the host observes -/

theorem observe_step (s : State) : observe (step s) = eval s.ports := by
  rw [step_eq_complete_eval, observe_complete]

/-! ## Which operations overflow -/

theorem shiftOutcome_ne_overflow (primitive : Word → Nat → Word) (n : Word) (amount : Nat) :
    shiftOutcome primitive n amount ≠ .overflow := by
  obtain ⟨-, h⟩ | ⟨-, h⟩ := shiftOutcome_cases primitive n amount <;> simp [h]

theorem fitOutcome_ne_overflow (width : Nat) (answer : Nat → Bool) : fitOutcome width answer ≠ .overflow := by
  obtain ⟨-, h⟩ | ⟨-, h⟩ := fitOutcome_cases width answer <;> simp [h]

theorem extractOutcome_ne_overflow (extract : Word → Nat → Nat → Word) (word : Word) (width lsb : Nat) :
    extractOutcome extract word width lsb ≠ .overflow := by
  obtain ⟨-, h⟩ | ⟨-, h⟩ := extractOutcome_cases extract word width lsb <;> simp [h]

/-- Only the insertions overflow (60_exceptions.md R112). -/
theorem newu_or_news_of_outcomeOf_eq_overflow {i : Instr} (h : outcomeOf i = .overflow) :
    ∃ word width lsb value, i = .newu word width lsb value ∨ i = .news word width lsb value := by
  cases i with
  | newu word width lsb value => exact ⟨word, width, lsb, value, .inl rfl⟩
  | news word width lsb value => exact ⟨word, width, lsb, value, .inr rfl⟩
  | shlu | shru | shls | shrs => exact absurd h (shiftOutcome_ne_overflow _ _ _)
  | fitsu | fitss => exact absurd h (fitOutcome_ne_overflow _ _)
  | getu | gets => exact absurd h (extractOutcome_ne_overflow _ _ _ _)

theorem op_of_eval_eq_overflow {r : Request} (h : eval r = .overflow) : r.op = 0x8 ∨ r.op = 0x9 := by
  rw [eval_eq_outcome] at h
  cases hd : decode r with
  | reserved op => simp [hd, decodedOutcome] at h
  | instr i =>
    rw [hd] at h
    obtain ⟨word, width, lsb, value, rfl | rfl⟩ := newu_or_news_of_outcomeOf_eq_overflow h
    · exact .inl (encode_op_of_decode hd).symm
    · exact .inr (encode_op_of_decode hd).symm

/-- The four outcomes with their codes (60_exceptions.md R110). -/
theorem BlockOutcome.cases_statusO (o : BlockOutcome) :
    ((∃ v, o = .ok v) ∧ o.statusO = 0b00) ∨ (o = .overflow ∧ o.statusO = 0b01) ∨
    (o = .contract ∧ o.statusO = 0b10) ∨ (o = .illegal ∧ o.statusO = 0b11) := by
  cases o with
  | ok v => exact .inl ⟨⟨v, rfl⟩, rfl⟩
  | overflow => exact .inr (.inl ⟨rfl, rfl⟩)
  | contract => exact .inr (.inr (.inl ⟨rfl, rfl⟩))
  | illegal => exact .inr (.inr (.inr ⟨rfl, rfl⟩))

/-- Settles O13: a step completes the ports' request with its outcome, an outcome is one of four by its constructor, and of
the operations only the insertions overflow, whose codes are 0x8 and 0x9. -/
theorem outcomeIsFunctionOfRequest : Obligations.OutcomeIsFunctionOfRequest :=
  ⟨observe_step, BlockOutcome.cases_statusO, fun _ => op_of_eval_eq_overflow⟩

/-- Settles O14: a changed `b`, or `lsb`, is no port that decoding reads for the codes in question. -/
theorem unusedInputsHaveNoEffect : Obligations.UnusedInputsHaveNoEffect := by
  refine ⟨fun r b not8 not9 => ?changedB, fun r lsb not6 not7 not8 not9 => ?changedLsb⟩
  case changedB =>
    exact eval_eq_of_read_ports_eq rfl rfl rfl (fun _ => rfl) fun insertion => by tauto
  case changedLsb =>
    exact eval_eq_of_read_ports_eq rfl rfl rfl (fun field => by tauto) fun _ => rfl

end Sys2Proof.Machine

/-! PROOFS. The operation table (30_encoding.md R51 to R53) and the packed form of a request (R50). -/

namespace Sys2Proof

/-! ## The operation table -/

/-- With the code known, decoding answers the operation's row of the table for the request's own ports
(30_encoding.md R51, R52). -/
theorem decode_eq_of_op {r : Request} {code : OpCode} (h : r.op = code) : decode r = decode { r with op := code } := by
  rw [← h]

/-- No code from 0xA up has a row of its own (30_encoding.md R54). -/
theorem decode_reserved {r : Request} (h : 0xA ≤ r.op.toNat) : decode r = .reserved r.op := by
  unfold decode
  split
  case h_11 => rfl
  all_goals omega

/-- Settles O3: at each of the ten codes the decoder's row for that code is the table's, and the codes above have none. -/
theorem operationTable : Obligations.OperationTable := fun _ =>
  ⟨decode_eq_of_op, decode_eq_of_op, decode_eq_of_op, decode_eq_of_op, decode_eq_of_op, decode_eq_of_op, decode_eq_of_op,
    decode_eq_of_op, decode_eq_of_op, decode_eq_of_op, decode_reserved⟩

/-! ## The packed form -/

/-- The high part of a concatenation counts in units of the low part's range. -/
theorem toNat_append_eq_add {m n : Nat} (high : BitVec m) (low : BitVec n) :
    (high ++ low).toNat = high.toNat * 2 ^ n + low.toNat := by
  rw [BitVec.toNat_append, ← Nat.shiftLeft_add_eq_or_of_lt low.isLt, Nat.shiftLeft_eq]

theorem toNat_pack (r : Request) :
    (pack r).toNat = r.op.toNat * 2 ^ 192 + r.lsb.toNat * 2 ^ 160 + r.width.toNat * 2 ^ 128
      + r.b.toNat * 2 ^ 64 + r.a.toNat := by
  simp only [pack, toNat_append_eq_add]
  omega

/-- A cut at or above a low part's width is a cut of the high part, and a cut of the low part's own width gives the low
part: peeling fields off from the right reaches each field at its place. -/
theorem unpack_pack (r : Request) : unpack (pack r) = r := by
  simp (disch := decide) only [unpack, pack, BitVec.extractLsb'_append_eq_of_le, BitVec.extractLsb'_append_eq_right,
    BitVec.extractLsb'_eq_self, Nat.reduceSub]

/-- The five places adjoin and fill the 196 bits, so nothing of the vector is lost. -/
theorem pack_unpack (v : PackedRequest) : pack (unpack v) = v := by
  calc
    v.extractLsb' 192 4 ++ v.extractLsb' 160 32 ++ v.extractLsb' 128 32 ++ v.extractLsb' 64 64 ++ v.extractLsb' 0 64
    _ = v.extractLsb' 0 196 := by
        iterate 4 rw [BitVec.extractLsb'_append_extractLsb'_eq_extractLsb' (by rfl)]
    _ = v := BitVec.extractLsb'_eq_self

/-- Settles O6: the packed form is the sum of its fields at their places, and `pack` and `unpack` undo each other. -/
theorem packedRequestLayout : Obligations.PackedRequestLayout :=
  ⟨fun r => ⟨toNat_pack r, unpack_pack r⟩, pack_unpack⟩

end Sys2Proof

/-! PROOFS. The four shifts (40_shift.md R70 to R76): what they answer above, at and below 64, and the primitives'
results as numbers. -/

namespace Sys2Proof.Machine

/-! ## Amounts above, up to and at 64 -/

section ShiftFamily

variable {i : Instr} {primitive : Word → Nat → Word} {n : Word} {amount : Nat}

/-- A shift by more than 64 is a CONTRACT fault (40_shift.md R74). -/
theorem exec_shift_of_gt (shift : outcomeOf i = shiftOutcome primitive n amount) (h : 64 < amount) (s : State) :
    exec i s = .fault .contract := by
  rw [exec_eq_complete, shift, shiftOutcome, if_pos h, complete_contract]

/-- A shift by at most 64 completes with its primitive's result (40_shift.md R76). -/
theorem exec_shift_of_le (shift : outcomeOf i = shiftOutcome primitive n amount) (h : amount ≤ 64) (s : State) :
    exec i s = .next (s.setOutputs (.ok (primitive n amount))) := by
  rw [exec_eq_complete, shift, shiftOutcome, if_neg (Nat.not_lt.2 h), complete_ok]

end ShiftFamily

theorem shl64_at_64 (v : Word) : shl64 v 64 = 0 := rfl

theorem shr64_at_64 (v : Word) : shr64 v 64 = 0 := rfl

theorem exec_shlu_64 (n : Word) (s : State) : exec (.shlu n 64) s = .next (s.setOutputs (.ok 0)) := by
  rw [exec_shift_of_le rfl le_rfl, shl64_at_64]

theorem exec_shru_64 (n : Word) (s : State) : exec (.shru n 64) s = .next (s.setOutputs (.ok 0)) := by
  rw [exec_shift_of_le rfl le_rfl, shr64_at_64]

/-- SHLS has the outcome of SHLU on the same pattern (40_shift.md R72). -/
theorem exec_shls_eq_exec_shlu (n : Word) (amount : Nat) (s : State) :
    exec (.shls n amount) s = exec (.shlu n amount) s := by
  rw [exec_eq_complete, exec_eq_complete, outcomeOf, outcomeOf]

theorem exec_shls_64 (n : Word) (s : State) : exec (.shls n 64) s = .next (s.setOutputs (.ok 0)) := by
  rw [exec_shls_eq_exec_shlu, exec_shlu_64]

theorem exec_shrs_64 (n : Word) (s : State) : exec (.shrs n 64) s = .next (s.setOutputs (.ok 0)) := by
  rw [exec_shift_of_le rfl le_rfl, sar64_at_64]

/-! ## The primitives' results as numbers, below 64 -/

theorem shl64_eq_ofNat (v : Word) {amount : Nat} (h : amount < 64) :
    shl64 v amount = BitVec.ofNat 64 (v.toNat * 2 ^ amount) := by
  rw [shl64, if_neg h.ne]
  exact BitVec.eq_of_toNat_eq (by rw [BitVec.toNat_shiftLeft, BitVec.toNat_ofNat, Nat.shiftLeft_eq])

theorem shr64_eq_ofNat (v : Word) {amount : Nat} (h : amount < 64) :
    shr64 v amount = BitVec.ofNat 64 (v.toNat / 2 ^ amount) := by
  rw [shr64, if_neg h.ne, ← Nat.shiftRight_eq_div_pow, ← BitVec.toNat_ushiftRight, BitVec.ofNat_toNat,
    BitVec.setWidth_eq]

/-- The signed and the unsigned reading of a word differ by a multiple of `2^64`, so the wrapped products agree. -/
theorem shl64_eq_ofInt (v : Word) {amount : Nat} (h : amount < 64) :
    shl64 v amount = BitVec.ofInt 64 (v.toInt * 2 ^ amount) := by
  calc shl64 v amount
    _ = BitVec.ofNat 64 (v.toNat * 2 ^ amount) := shl64_eq_ofNat v h
    _ = BitVec.ofNat 64 v.toNat * BitVec.ofNat 64 (2 ^ amount) := BitVec.ofNat_mul _ _
    _ = BitVec.ofInt 64 v.toInt * BitVec.ofInt 64 (2 ^ amount : Nat) := by
        rw [BitVec.ofNat_toNat, BitVec.setWidth_eq, BitVec.ofInt_toInt, BitVec.ofInt_natCast]
    _ = BitVec.ofInt 64 (v.toInt * 2 ^ amount) := by
        rw [← BitVec.ofInt_mul, Nat.cast_pow, Nat.cast_ofNat]

/-- SHRU's bits: those of the word `amount` places up, and zeros beyond bit 63 whatever bit 63 is (40_shift.md R71). -/
theorem shr64_bit_eq_and (v : Word) (amount i : Nat) :
    (shr64 v amount).getLsbD i = (decide (i + amount ≤ 63) && v.getLsbD (i + amount)) := by
  rw [shr64_bit, Nat.add_comm]
  by_cases h : i + amount ≤ 63
  · rw [decide_eq_true h, Bool.true_and]
  · rw [decide_eq_false h, Bool.false_and, BitVec.getLsbD_of_ge _ _ (by omega)]

/-! ## The obligations -/

/-- Settles O25: each primitive gives 0 at 64, the arithmetic one too. -/
theorem shiftBySixtyFourIsZero : Obligations.ShiftBySixtyFourIsZero := fun n s =>
  ⟨exec_shlu_64 n s, exec_shru_64 n s, exec_shls_64 n s, exec_shrs_64 n s⟩

/-- Settles O20: below 64 the result is `shl64`'s, known as a number and bit by bit. -/
theorem shluShiftsLeft : Obligations.ShluShiftsLeft := by
  refine ⟨fun _ => decode_eq_of_op, fun _ _ s above => exec_shift_of_gt rfl above s, exec_shlu_64, ?below64⟩
  intro n amount s below
  exact ⟨shl64 n amount, exec_shift_of_le rfl below.le s, shl64_eq_ofNat n below, fun _ => shl64_bit n amount⟩

/-- Settles O21: below 64 the result is `shr64`'s, known as a number and bit by bit. -/
theorem shruShiftsRight : Obligations.ShruShiftsRight := by
  refine ⟨fun _ => decode_eq_of_op, fun _ _ s above => exec_shift_of_gt rfl above s, exec_shru_64, ?below64⟩
  intro n amount s below
  exact ⟨shr64 n amount, exec_shift_of_le rfl below.le s, shr64_eq_ofNat n below, fun i _ => shr64_bit_eq_and n amount i⟩

/-- Settles O22: below 64 the result is `shl64`'s, which is the wrapped signed product too. -/
theorem shlsShiftsLeftSigned : Obligations.ShlsShiftsLeftSigned := by
  refine ⟨fun _ => decode_eq_of_op, fun _ _ s above => exec_shift_of_gt rfl above s, exec_shls_64, ?below64,
    exec_shls_eq_exec_shlu⟩
  intro n amount s below
  rw [exec_shift_of_le rfl below.le, shl64_eq_ofInt n below]

/-- Settles O23: below 64 the result is `sar64`'s, known bit by bit; at 64 it is 0 and not the sign fill. -/
theorem shrsShiftsRightSigned : Obligations.ShrsShiftsRightSigned := by
  refine ⟨fun _ => decode_eq_of_op, fun _ _ s above => exec_shift_of_gt rfl above s, exec_shrs_64, ?below64⟩
  intro n amount s below
  exact ⟨sar64 n amount, exec_shift_of_le rfl below.le s, fun _ => sar64_bit n below⟩

end Sys2Proof.Machine

/-! PROOFS. The fit predicates (41_fit.md R80 to R83): their ranges and boundaries, and what FITSU and FITSS answer. -/

namespace Sys2Proof.Machine

/-! ## The ranges -/

/-- The range of R80, in exact integers. -/
theorem fitsu_iff_range (value width : Nat) :
    fitsu value width = true ↔ 0 ≤ (value : Int) ∧ (value : Int) ≤ 2 ^ width - 1 := by
  rw [fitsu_iff, Int.le_sub_one_iff, and_iff_right (Int.natCast_nonneg value)]
  exact_mod_cast Iff.rfl

/-- The range of R81, with both ends included. -/
theorem fitss_iff_range (value : Int) {width : Nat} (h : width ≠ 0) :
    fitss value width = true ↔ -(2 : Int) ^ (width - 1) ≤ value ∧ value ≤ (2 : Int) ^ (width - 1) - 1 := by
  rw [fitss_iff value h, Int.le_sub_one_iff]

theorem fitsu_64 (value : Word) : fitsu (uint value) 64 = true :=
  (fitsu_iff _ _).2 value.isLt

theorem fitss_64 (value : Word) : fitss (sint value) 64 = true :=
  (fitss_iff _ (by decide)).2 ⟨BitVec.le_toInt value, BitVec.toInt_lt⟩

/-! ## The boundaries of the signed range -/

section SignedBoundaries

variable {width : Nat}

theorem fitss_greatest (h : width ≠ 0) : fitss ((2 : Int) ^ (width - 1) - 1) width = true := by
  have power : (0 : Int) < 2 ^ (width - 1) := by positivity
  exact (fitss_iff_range _ h).2 ⟨by omega, le_rfl⟩

theorem fitss_above_greatest (h : width ≠ 0) : fitss ((2 : Int) ^ (width - 1)) width = false :=
  Bool.eq_false_iff.2 fun fits => lt_irrefl _ ((fitss_iff _ h).1 fits).2

theorem fitss_least (h : width ≠ 0) : fitss (-(2 : Int) ^ (width - 1)) width = true := by
  have power : (0 : Int) < 2 ^ (width - 1) := by positivity
  exact (fitss_iff _ h).2 ⟨le_rfl, by omega⟩

theorem fitss_below_least (h : width ≠ 0) : fitss (-(2 : Int) ^ (width - 1) - 1) width = false :=
  Bool.eq_false_iff.2 fun fits => (sub_one_lt _).not_ge ((fitss_iff _ h).1 fits).1

end SignedBoundaries

/-! ## Widths above and up to 64 -/

section FitFamily

variable {i : Instr} {answer : Nat → Bool} {width : Nat}

/-- A fit test with a width above 64 is a CONTRACT fault (41_fit.md R82). -/
theorem exec_fit_of_gt (fit : outcomeOf i = fitOutcome width answer) (h : 64 < width) (s : State) :
    exec i s = .fault .contract := by
  rw [exec_eq_complete, fit, fitOutcome, if_pos h, complete_contract]

/-- A fit test with a width up to 64 completes with 1 or 0, by the condition its answer stands for (41_fit.md R84). -/
theorem exec_fit_of_le {p : Prop} [Decidable p] (fit : outcomeOf i = fitOutcome width answer) (h : width ≤ 64)
    (answers : answer width = true ↔ p) (s : State) :
    exec i s = .next (s.setOutputs (.ok (if p then 1 else 0))) := by
  rw [exec_eq_complete, fit, fitOutcome, if_neg (Nat.not_lt.2 h), complete_ok, boolWord]
  simp only [answers]

end FitFamily

theorem exec_fitsu_64 (value : Word) (s : State) : exec (.fitsu value 64) s = .next (s.setOutputs (.ok 1)) :=
  exec_fit_of_le (p := True) rfl le_rfl (iff_true_intro (fitsu_64 value)) s

theorem exec_fitss_64 (value : Word) (s : State) : exec (.fitss value 64) s = .next (s.setOutputs (.ok 1)) :=
  exec_fit_of_le (p := True) rfl le_rfl (iff_true_intro (fitss_64 value)) s

/-! ## The obligations -/

/-- Settles O26: up to width 64 the answer is `fitsu`'s, which stands for the range; every word is in the range of 64. -/
theorem fitsuTestsUnsignedRange : Obligations.FitsuTestsUnsignedRange := by
  refine ⟨fun _ => decode_eq_of_op, fun _ _ s above => exec_fit_of_gt rfl above s, ?upTo64, exec_fitsu_64⟩
  intro value width s upTo64
  exact exec_fit_of_le rfl upTo64 (fitsu_iff_range value.toNat width) s

/-- Settles O27: up to width 64 the answer is `fitss`'s, which stands for the range from width 1 on and for the value 0 at
width 0. -/
theorem fitssTestsSignedRange : Obligations.FitssTestsSignedRange := by
  refine ⟨fun _ => decode_eq_of_op, fun _ _ s above => exec_fit_of_gt rfl above s, ?widthZero, ?upTo64, exec_fitss_64⟩
  case widthZero => exact fun value s => exec_fit_of_le rfl (Nat.zero_le 64) (fitss_zero_width_iff value) s
  case upTo64 =>
    intro value width s positive upTo64
    exact exec_fit_of_le rfl upTo64 (fitss_iff_range value.toInt (Nat.ne_zero_of_lt positive)) s

/-- Settles O28: the predicates' inequalities, read at the boundaries; at width 64 the two values are the signed range's
own ends. -/
theorem fitPredicateLaws : Obligations.FitPredicateLaws := by
  refine ⟨?unsigned, fitsu_64, ?boundaries, ⟨fitss_greatest (width := 64) (by decide), fitss_least (width := 64) (by decide)⟩,
    ?widthZero⟩
  case unsigned => exact fun v width _ => Bool.eq_iff_iff.2 ((fitsu_iff v width).trans decide_eq_true_iff.symm)
  case boundaries =>
    intro width positive _
    have h : width ≠ 0 := Nat.ne_zero_of_lt positive
    exact ⟨fitss_greatest h, fitss_above_greatest h, fitss_least h, fitss_below_least h⟩
  case widthZero => exact fun v => Bool.eq_iff_iff.2 ((fitss_zero_iff v).trans decide_eq_true_iff.symm)

end Sys2Proof.Machine

/-! PROOFS. The two extractions (42_extract.md R90 to R93): the fault on an invalid descriptor, and on a valid one the
result's bits and, for GETS, its range. -/

namespace Sys2Proof.Machine

/-! ## Invalid descriptors -/

/-- An extraction with an invalid descriptor is a CONTRACT fault (42_extract.md R92). -/
theorem exec_extract_of_invalid {i : Instr} {extract : Word → Nat → Nat → Word} {word : Word} {width lsb : Nat}
    (extraction : outcomeOf i = extractOutcome extract word width lsb) (invalid : ¬ (width ≤ 64 ∧ width + lsb ≤ 64))
    (s : State) : exec i s = .fault .contract := by
  rw [exec_eq_complete, extraction, extractOutcome, if_neg (mt (validField_iff width lsb).1 invalid), complete_contract]

/-! ## The unsigned field -/

/-- GETU's bits: the mask has cleared the word above the field, and past bit 63 the word has none (42_extract.md R90). -/
theorem getUnsigned_bit (word : Word) {width lsb : Nat} (valid : width + lsb ≤ 64) (i : Nat) :
    (getUnsigned word width lsb).getLsbD i = (decide (i < width) && word.getLsbD (lsb + i)) := by
  rw [getUnsigned]
  split
  case isTrue empty => simp [empty]
  case isFalse =>
    rw [shr64_bit, BitVec.getLsbD_and]
    by_cases inWord : lsb + i < 64
    · simp [fieldMask_bit valid inWord, Bool.and_comm]
    · simp [BitVec.getLsbD_of_ge word (lsb + i) (by omega)]

/-! ## The signed field -/

/-- GETS's bits: the shift up puts the field's top bit at bit 63, and the arithmetic shift back repeats it
(42_extract.md R91). -/
theorem getSigned_bit (word : Word) {width lsb : Nat} (positive : 1 ≤ width) (valid : width + lsb ≤ 64) {i : Nat}
    (hi : i < 64) : (getSigned word width lsb).getLsbD i = word.getLsbD (lsb + min i (width - 1)) := by
  have source : min (i + (64 - width)) 63 = 64 - (width + lsb) + (lsb + min i (width - 1)) := by omega
  rw [getSigned, sar64_bit _ (by omega) hi, shl64_bit _ _ (by omega), source, Nat.add_sub_cancel_left]
  simp

/-- An arithmetic shift by `64 − width` divides a number of the 64-bit range by `2^(64 − width)`, and so leaves one of the
`width`-bit range. -/
theorem fitss_sar64 (v : Word) {width : Nat} (positive : 1 ≤ width) (h : width ≤ 64) :
    fitss (sint (sar64 v (64 - width))) width = true := by
  have quotient : sint (sar64 v (64 - width)) = sint v / 2 ^ (64 - width) := by
    rw [sar64, if_neg (by omega), sint, BitVec.toInt_sshiftRight, Int.shiftRight_eq_div_pow]
    norm_cast
  have scale : (2 : Int) ^ (width - 1) * 2 ^ (64 - width) = 2 ^ 63 := by
    rw [← pow_add, show width - 1 + (64 - width) = 63 by omega]
  have divisor : (0 : Int) < 2 ^ (64 - width) := by positivity
  rw [fitss_iff _ (by omega), quotient, Int.le_ediv_iff_mul_le divisor, Int.ediv_lt_iff_lt_mul divisor, neg_mul, scale]
  exact ⟨BitVec.le_toInt v, BitVec.toInt_lt⟩

/-- GETS's result is in the signed range of the width (42_extract.md R91). -/
theorem fitss_getSigned (word : Word) {width : Nat} (lsb : Nat) (positive : 1 ≤ width) (h : width ≤ 64) :
    fitss (sint (getSigned word width lsb)) width = true :=
  fitss_sar64 _ positive h

/-! ## The obligations -/

/-- Settles O29: on a valid descriptor the result is `getUnsigned`'s, known bit by bit at width 0 too. -/
theorem getuExtractsUnsigned : Obligations.GetuExtractsUnsigned := by
  refine ⟨fun _ => decode_eq_of_op, fun _ _ _ s invalid => exec_extract_of_invalid rfl invalid s, ?valid⟩
  intro word width lsb s upTo64 valid
  exact ⟨getUnsigned word width lsb, exec_getu_of_valid word ((validField_iff width lsb).2 ⟨upTo64, valid⟩) s,
    fun i _ => getUnsigned_bit word valid i⟩

/-- Settles O30: on a valid descriptor the result is `getSigned`'s; it is 0 at width 0, and from width 1 on its bits are
known and it is in the signed range. -/
theorem getsExtractsSigned : Obligations.GetsExtractsSigned := by
  refine ⟨fun _ => decode_eq_of_op, fun _ _ _ s invalid => exec_extract_of_invalid rfl invalid s, ?widthZero, ?valid⟩
  case widthZero =>
    intro word lsb s hlsb
    rw [exec_gets_of_valid word (validField_zero_width hlsb), getSigned_zero_width]
  case valid =>
    intro word width lsb s positive upTo64 valid
    exact ⟨getSigned word width lsb, exec_gets_of_valid word ((validField_iff width lsb).2 ⟨upTo64, valid⟩) s,
      fun i => getSigned_bit word positive valid,
      (fitss_iff_range _ (Nat.ne_zero_of_lt positive)).1 (fitss_getSigned word lsb positive upTo64)⟩

end Sys2Proof.Machine

/-! PROOFS. The two insertions (43_insert.md R100 to R103): the faults and overflows of NEWU and NEWS, the bits of their
results, and the request after an overflow. -/

namespace Sys2Proof.Machine

/-! ## Invalid descriptors -/

/-- An insertion with an invalid descriptor is a CONTRACT fault, whatever the value (43_insert.md R102). -/
theorem exec_insert_of_invalid {i : Instr} {insert : Word → Nat → Nat → Word → Word} {fits : Nat → Bool}
    {word value : Word} {width lsb : Nat} (insertion : outcomeOf i = insertOutcome insert fits word width lsb value)
    (invalid : ¬ (width ≤ 64 ∧ width + lsb ≤ 64)) (s : State) : exec i s = .fault .contract := by
  rw [exec_eq_complete, insertion, insertOutcome, if_neg (mt (validField_iff width lsb).1 invalid), complete_contract]

/-! ## The field in its word -/

/-- Insertion bit by bit, for a value with no bit beyond the field: the keep mask and the moved value never set the same
bit (43_insert.md R100). -/
theorem newUnsigned_bit (word : Word) {value : Word} {width lsb : Nat} (valid : width + lsb ≤ 64)
    (inField : ∀ j, width ≤ j → value.getLsbD j = false) {i : Nat} (hi : i < 64) :
    (newUnsigned word width lsb value).getLsbD i =
      if lsb ≤ i ∧ i < lsb + width then value.getLsbD (i - lsb) else word.getLsbD i := by
  rw [newUnsigned, BitVec.getLsbD_or, BitVec.getLsbD_and, keepMask_bit valid hi, shl64_bit _ _ hi]
  by_cases below : i < lsb
  · simp [below.not_ge]
  · by_cases above : lsb + width ≤ i
    · simp [above.not_gt, inField (i - lsb) (by omega)]
    · simp [Nat.not_lt.1 below, Nat.not_le.1 above]

/-- The range of R100, with its greatest value included. -/
theorem fitsu_iff_le_sub_one (value width : Nat) : fitsu value width = true ↔ value ≤ 2 ^ width - 1 :=
  decide_eq_true_iff

/-- An unsigned value that fits has no bit beyond the width. -/
theorem bit_beyond_of_fitsu {value : Word} {width : Nat} (fits : fitsu (uint value) width = true) (j : Nat)
    (h : width ≤ j) : value.getLsbD j = false := by
  have bound : value.toNat < 2 ^ j :=
    ((fitsu_iff _ _).1 fits).trans_le (Nat.pow_le_pow_right Nat.two_pos h)
  exact Nat.testBit_eq_false_of_lt bound

/-- NEWS inserts as NEWU does, once the sign above the field is masked off (43_insert.md R101, 90_conflicts.md C3). -/
theorem newSigned_eq_newUnsigned (word : Word) (width lsb : Nat) (value : Word) :
    newSigned word width lsb value = newUnsigned word width lsb (value &&& shr64 ones64 (64 - width)) := rfl

theorem newSigned_bit (word value : Word) {width lsb : Nat} (valid : width + lsb ≤ 64) {i : Nat} (hi : i < 64) :
    (newSigned word width lsb value).getLsbD i =
      if lsb ≤ i ∧ i < lsb + width then value.getLsbD (i - lsb) else word.getLsbD i := by
  have masked (j : Nat) :
      (value &&& shr64 ones64 (64 - width)).getLsbD j = (value.getLsbD j && decide (j < width)) := by
    rw [BitVec.getLsbD_and, lowOnes_bit (by omega)]
  rw [newSigned_eq_newUnsigned, newUnsigned_bit word valid (fun j h => by simp [masked, h]) hi]
  refine if_ctx_congr Iff.rfl (fun field => ?_) fun _ => rfl
  rw [masked, decide_eq_true (by omega), Bool.and_true]

/-! ## When a request overflows -/

theorem insertOutcome_eq_overflow_iff (insert : Word → Nat → Nat → Word → Word) (fits : Nat → Bool) (word value : Word)
    (width lsb : Nat) : insertOutcome insert fits word width lsb value = .overflow ↔
      validField width lsb = true ∧ fits width = false := by
  obtain ⟨invalid, h⟩ | ⟨valid, misfit, h⟩ | ⟨valid, fit, h⟩ := insertOutcome_cases insert fits word width lsb value
  · simp [h, invalid]
  · simp [h, valid, misfit]
  · simp [h, fit]

theorem validDescriptor_eq_validField (r : Request) : r.validDescriptor = validField r.width.toNat r.lsb.toNat :=
  Bool.eq_iff_iff.2 (decide_eq_true_iff.trans (validField_iff _ _).symm)

theorem unsignedMisfit_eq_not_fitsu (r : Request) : r.unsignedMisfit = !fitsu (uint r.b) r.width.toNat := by
  rw [Request.unsignedMisfit, Bool.eq_iff_iff, decide_eq_true_iff, Bool.not_eq_true', Bool.eq_false_iff, Ne, fitsu_iff,
    Nat.not_lt]

theorem signedMisfit_eq_not_fitss (r : Request) : r.signedMisfit = !fitss (sint r.b) r.width.toNat := by
  rw [Request.signedMisfit, Bool.eq_iff_iff, Bool.not_eq_true', Bool.eq_false_iff]
  split
  case isTrue empty => rw [empty, decide_eq_true_iff, Ne, Ne, fitss_zero_width_iff]
  case isFalse nonempty => rw [decide_eq_true_iff, Ne, fitss_iff _ nonempty, not_and_or, Int.not_le, Int.not_lt]

theorem eval_of_newu {r : Request} (newu : r.op = 0x8) :
    eval r = insertOutcome newUnsigned (fitsu (uint r.b)) r.a r.width.toNat r.lsb.toNat r.b := by
  rw [eval_eq_outcome, decode_eq_of_op newu]
  rfl

theorem eval_of_news {r : Request} (news : r.op = 0x9) :
    eval r = insertOutcome newSigned (fitss (sint r.b)) r.a r.width.toNat r.lsb.toNat r.b := by
  rw [eval_eq_outcome, decode_eq_of_op news]
  rfl

/-- A request's outcome is OVERFLOW exactly under the condition of 60_exceptions.md R112. -/
theorem eval_eq_overflow_iff (r : Request) : eval r = .overflow ↔ r.overflows = true := by
  by_cases newu : r.op = 0x8
  · rw [eval_of_newu newu, insertOutcome_eq_overflow_iff]
    simp [Request.overflows, newu, validDescriptor_eq_validField, unsignedMisfit_eq_not_fitsu]
  · by_cases news : r.op = 0x9
    · rw [eval_of_news news, insertOutcome_eq_overflow_iff]
      simp [Request.overflows, news, validDescriptor_eq_validField, signedMisfit_eq_not_fitss]
    · have no8 : r.op.toNat ≠ 0x8 := fun h => newu (BitVec.eq_of_toNat_eq h)
      have no9 : r.op.toNat ≠ 0x9 := fun h => news (BitVec.eq_of_toNat_eq h)
      rw [Request.overflows, if_neg no8, if_neg no9]
      exact iff_of_false (fun h => (op_of_eval_eq_overflow h).elim newu news) Bool.false_ne_true

/-! ## The obligations -/

/-- Settles O19: the step completes the request with OVERFLOW, which only sets the outputs, and driving a later request
forgets them. -/
theorem overflowIsRecoverable : Obligations.OverflowIsRecoverable := by
  intro s overflows
  refine ⟨?step, State.setOutputs_ports s .overflow, fun r => ?later⟩
  case step => rw [step_eq_complete_eval, (eval_eq_overflow_iff s.ports).2 overflows, complete_overflow]
  case later => rw [State.setOutputs_drive, observe_step, State.drive_ports]

/-- Settles O33: on a valid descriptor `fitsu` decides between OVERFLOW and `newUnsigned`'s result, whose bits are known
because a value that fits has none beyond the field. -/
theorem newuInsertsUnsigned : Obligations.NewuInsertsUnsigned := by
  refine ⟨fun _ => decode_eq_of_op, fun _ _ _ _ s invalid => exec_insert_of_invalid rfl invalid s, ?misfit, ?fit⟩
  case misfit =>
    intro word value width lsb s upTo64 valid above
    exact exec_newu_of_misfit word value ((validField_iff width lsb).2 ⟨upTo64, valid⟩)
      (mt (fitsu_iff_le_sub_one value.toNat width).1 above.not_ge) s
  case fit =>
    intro word value width lsb s upTo64 valid inRange
    have fits := (fitsu_iff_le_sub_one value.toNat width).2 inRange
    exact ⟨newUnsigned word width lsb value,
      exec_newu_of_fits word value ((validField_iff width lsb).2 ⟨upTo64, valid⟩) fits s,
      fun _ => newUnsigned_bit word valid (bit_beyond_of_fitsu fits)⟩

/-- Settles O34: on a valid descriptor `fitss` decides between OVERFLOW and `newSigned`'s result, whose bits outside the
field are the word's because the value is masked first. -/
theorem newsInsertsSigned : Obligations.NewsInsertsSigned := by
  refine ⟨fun _ => decode_eq_of_op, fun _ _ _ _ s invalid => exec_insert_of_invalid rfl invalid s, ?zeroWidthMisfit,
    ?zeroWidthFit, ?misfit, ?fit⟩
  case zeroWidthMisfit =>
    intro word value lsb s hlsb nonzero
    exact exec_news_of_misfit word value (validField_zero_width hlsb) (mt (fitss_zero_width_iff value).1 nonzero) s
  case zeroWidthFit =>
    intro word lsb s hlsb
    rw [exec_news_of_fits word 0 (validField_zero_width hlsb) ((fitss_zero_width_iff 0).2 rfl),
      newSigned_zero_width_zero word hlsb]
  case misfit =>
    intro word value width lsb s positive upTo64 valid outside
    refine exec_news_of_misfit word value ((validField_iff width lsb).2 ⟨upTo64, valid⟩) (fun fits => ?_) s
    obtain ⟨least, greatest⟩ := (fitss_iff_range _ (Nat.ne_zero_of_lt positive)).1 fits
    exact outside.elim least.not_gt greatest.not_gt
  case fit =>
    intro word value width lsb s positive upTo64 valid least greatest
    have fits := (fitss_iff_range value.toInt (Nat.ne_zero_of_lt positive)).2 ⟨least, greatest⟩
    exact ⟨newSigned word width lsb value,
      exec_news_of_fits word value ((validField_iff width lsb).2 ⟨upTo64, valid⟩) fits s,
      fun _ => newSigned_bit word value valid⟩

end Sys2Proof.Machine

/-! PROOFS. When a request ends in each status (60_exceptions.md R110 to R114): the conditions for CONTRACT, OVERFLOW and
ILLEGAL, and their order. -/

namespace Sys2Proof.Machine

/-! ## When a family's outcome is CONTRACT -/

theorem shiftOutcome_eq_contract_iff (primitive : Word → Nat → Word) (n : Word) (amount : Nat) :
    shiftOutcome primitive n amount = .contract ↔ 64 < amount := by
  obtain ⟨above, h⟩ | ⟨upTo64, h⟩ := shiftOutcome_cases primitive n amount
  · simp [h, above]
  · simp [h, upTo64]

theorem fitOutcome_eq_contract_iff (width : Nat) (answer : Nat → Bool) :
    fitOutcome width answer = .contract ↔ 64 < width := by
  obtain ⟨above, h⟩ | ⟨upTo64, h⟩ := fitOutcome_cases width answer
  · simp [h, above]
  · simp [h, upTo64]

theorem extractOutcome_eq_contract_iff (extract : Word → Nat → Nat → Word) (word : Word) (width lsb : Nat) :
    extractOutcome extract word width lsb = .contract ↔ validField width lsb = false := by
  obtain ⟨invalid, h⟩ | ⟨valid, h⟩ := extractOutcome_cases extract word width lsb
  · simp [h, invalid]
  · simp [h, valid]

theorem insertOutcome_eq_contract_iff (insert : Word → Nat → Nat → Word → Word) (fits : Nat → Bool) (word value : Word)
    (width lsb : Nat) :
    insertOutcome insert fits word width lsb value = .contract ↔ validField width lsb = false := by
  obtain ⟨invalid, h⟩ | ⟨valid, -, h⟩ | ⟨valid, -, h⟩ := insertOutcome_cases insert fits word width lsb value
  · simp [h, invalid]
  · simp [h, valid]
  · simp [h, valid]

/-! ## No family's outcome is ILLEGAL -/

theorem shiftOutcome_ne_illegal (primitive : Word → Nat → Word) (n : Word) (amount : Nat) :
    shiftOutcome primitive n amount ≠ .illegal := by
  obtain ⟨-, h⟩ | ⟨-, h⟩ := shiftOutcome_cases primitive n amount <;> simp [h]

theorem fitOutcome_ne_illegal (width : Nat) (answer : Nat → Bool) : fitOutcome width answer ≠ .illegal := by
  obtain ⟨-, h⟩ | ⟨-, h⟩ := fitOutcome_cases width answer <;> simp [h]

theorem extractOutcome_ne_illegal (extract : Word → Nat → Nat → Word) (word : Word) (width lsb : Nat) :
    extractOutcome extract word width lsb ≠ .illegal := by
  obtain ⟨-, h⟩ | ⟨-, h⟩ := extractOutcome_cases extract word width lsb <;> simp [h]

theorem insertOutcome_ne_illegal (insert : Word → Nat → Nat → Word → Word) (fits : Nat → Bool) (word value : Word)
    (width lsb : Nat) : insertOutcome insert fits word width lsb value ≠ .illegal := by
  obtain ⟨-, h⟩ | ⟨-, -, h⟩ | ⟨-, -, h⟩ := insertOutcome_cases insert fits word width lsb value <;> simp [h]

/-! ## The outcome by the code's family -/

/-- The outcome of a request by its code's family, on the ports that family reads (30_encoding.md R51, R52). -/
theorem eval_cases (r : Request) :
    (r.op.toNat ≤ 0x3 ∧ ∃ primitive, eval r = shiftOutcome primitive r.a r.width.toNat) ∨
    (0x4 ≤ r.op.toNat ∧ r.op.toNat ≤ 0x5 ∧ ∃ answer, eval r = fitOutcome r.width.toNat answer) ∨
    (0x6 ≤ r.op.toNat ∧ r.op.toNat ≤ 0x7 ∧ ∃ extract, eval r = extractOutcome extract r.a r.width.toNat r.lsb.toNat) ∨
    (0x8 ≤ r.op.toNat ∧ r.op.toNat ≤ 0x9 ∧
      ∃ insert fits, eval r = insertOutcome insert fits r.a r.width.toNat r.lsb.toNat r.b) ∨
    (0xA ≤ r.op.toNat ∧ eval r = .illegal) := by
  rw [eval_eq_outcome]
  unfold decode
  split
  case h_1 | h_2 | h_3 | h_4 => exact .inl ⟨by omega, _, rfl⟩
  case h_5 | h_6 => exact .inr (.inl ⟨by omega, by omega, _, rfl⟩)
  case h_7 | h_8 => exact .inr (.inr (.inl ⟨by omega, by omega, _, rfl⟩))
  case h_9 | h_10 => exact .inr (.inr (.inr (.inl ⟨by omega, by omega, _, _, rfl⟩)))
  case h_11 =>
    simp only [imp_false] at *
    exact .inr (.inr (.inr (.inr ⟨by omega, rfl⟩)))

/-! ## The conditions on the request -/

theorem reservedCode_iff (r : Request) : r.reservedCode = true ↔ 0xA ≤ r.op.toNat :=
  decide_eq_true_iff

theorem validDescriptor_iff (r : Request) :
    r.validDescriptor = true ↔ r.width.toNat ≤ 64 ∧ r.width.toNat + r.lsb.toNat ≤ 64 :=
  decide_eq_true_iff

/-- The table of 60_exceptions.md R111, its two groups of cases apart. -/
theorem contractViolation_iff (r : Request) :
    r.contractViolation = true ↔
      (r.op.toNat ≤ 0x5 ∧ 64 < r.width.toNat) ∨
      (0x6 ≤ r.op.toNat ∧ r.op.toNat ≤ 0x9 ∧ ¬ (r.width.toNat ≤ 64 ∧ r.width.toNat + r.lsb.toNat ≤ 64)) := by
  rw [Request.contractViolation]
  split
  case isTrue amount => rw [decide_eq_true_iff]; omega
  case isFalse =>
    split
    case isTrue field => rw [Bool.not_eq_true', Bool.eq_false_iff, Ne, validDescriptor_iff]; omega
    case isFalse reserved => exact iff_of_false Bool.false_ne_true (by omega)

/-- The overflow condition in the terms of 60_exceptions.md R112. -/
theorem overflows_iff (r : Request) :
    r.overflows = true ↔
      r.validDescriptor = true ∧
        ((r.op = 0x8 ∧ fitsu (uint r.b) r.width.toNat = false) ∨
         (r.op = 0x9 ∧ fitss (sint r.b) r.width.toNat = false)) := by
  by_cases newu : r.op = 0x8
  · simp [Request.overflows, newu, unsignedMisfit_eq_not_fitsu]
  · by_cases news : r.op = 0x9
    · simp [Request.overflows, news, signedMisfit_eq_not_fitss]
    · rw [← eval_eq_overflow_iff]
      exact iff_of_false (fun h => (op_of_eval_eq_overflow h).elim newu news) (by tauto)

/-- Width 0 admits the value 0, unsigned and signed. -/
theorem not_overflows_of_zero {r : Request} (width : r.width = 0) (b : r.b = 0) : ¬ r.overflows = true := by
  rw [overflows_iff, width, b]
  rintro ⟨-, ⟨-, misfit⟩ | ⟨-, misfit⟩⟩
  · exact Bool.eq_false_iff.1 misfit ((fitsu_zero_width_iff 0).2 rfl)
  · exact Bool.eq_false_iff.1 misfit ((fitss_zero_width_iff 0).2 rfl)

/-! ## When a request ends in each failure -/

theorem eval_eq_illegal_iff (r : Request) : eval r = .illegal ↔ 0xA ≤ r.op.toNat := by
  obtain ⟨_, _, h⟩ | ⟨_, _, _, h⟩ | ⟨_, _, _, h⟩ | ⟨_, _, _, _, h⟩ | ⟨reserved, h⟩ := eval_cases r
  case inr.inr.inr.inr => exact iff_of_true h reserved
  all_goals rw [h]
  · exact iff_of_false (shiftOutcome_ne_illegal _ _ _) (by omega)
  · exact iff_of_false (fitOutcome_ne_illegal _ _) (by omega)
  · exact iff_of_false (extractOutcome_ne_illegal _ _ _ _) (by omega)
  · exact iff_of_false (insertOutcome_ne_illegal _ _ _ _ _ _) (by omega)

/-- A request's outcome is CONTRACT exactly under the condition of 60_exceptions.md R111: a reserved code is refused before
its operands are examined. -/
theorem eval_eq_contract_iff (r : Request) : eval r = .contract ↔ r.contractViolation = true := by
  rw [contractViolation_iff]
  obtain ⟨_, _, h⟩ | ⟨_, _, _, h⟩ | ⟨_, _, _, h⟩ | ⟨_, _, _, _, h⟩ | ⟨reserved, h⟩ := eval_cases r
  all_goals rw [h]
  · rw [shiftOutcome_eq_contract_iff]; omega
  · rw [fitOutcome_eq_contract_iff]; omega
  · rw [extractOutcome_eq_contract_iff, Bool.eq_false_iff, Ne, validField_iff]; omega
  · rw [insertOutcome_eq_contract_iff, Bool.eq_false_iff, Ne, validField_iff]; omega
  · exact iff_of_false BlockOutcome.noConfusion (by omega)

theorem step_eq_contract_iff (s : State) : step s = .fault .contract ↔ s.ports.contractViolation = true := by
  rw [step_eq_complete_eval, complete_eq_fault, eval_eq_contract_iff]

theorem step_eq_refused_iff (s : State) (e : Refusal) :
    step s = .refused e ↔ 0xA ≤ s.ports.op.toNat ∧ e = .illegal := by
  rw [step_eq_complete_eval, complete_eq_refused, eval_eq_illegal_iff]

/-! ## The one status -/

/-- A request reports the first status that applies (60_exceptions.md R114): each condition gives its own outcome, and
under none of them only OK is left. -/
theorem eval_status (r : Request) : (eval r).status = r.specStatus := by
  have illegal : r.reservedCode = true ↔ eval r = .illegal := (reservedCode_iff r).trans (eval_eq_illegal_iff r).symm
  simp only [Request.specStatus, illegal, ← eval_eq_contract_iff, ← eval_eq_overflow_iff]
  cases eval r <;> rfl

theorem statusO_eq_ok_iff (o : BlockOutcome) : o.statusO = 0b00 ↔ ∃ v, o = .ok v := by
  cases o <;> simp [BlockOutcome.statusO, BlockOutcome.status, Status.code]

theorem statusO_eq_overflow_iff (o : BlockOutcome) : o.statusO = 0b01 ↔ o = .overflow := by
  cases o <;> simp [BlockOutcome.statusO, BlockOutcome.status, Status.code]

theorem statusO_eq_illegal_iff (o : BlockOutcome) : o.statusO = 0b11 ↔ o = .illegal := by
  cases o <;> simp [BlockOutcome.statusO, BlockOutcome.status, Status.code]

theorem statusO_step (s : State) : (observe (step s)).statusO = s.ports.specStatus.code := by
  rw [observe_step, BlockOutcome.statusO, eval_status]

/-! ## Requests of each status -/

/-- Width 0 at position 0 and a shift by 0 are in range, and the value 0 fits. -/
theorem specStatus_eq_ok_of_zero {r : Request} (code : r.op.toNat ≤ 0x9) (width : r.width = 0) (lsb : r.lsb = 0)
    (b : r.b = 0) : r.specStatus = .ok := by
  have noIllegal : ¬ r.reservedCode = true := by rw [reservedCode_iff]; omega
  have noContract : ¬ r.contractViolation = true := by rw [contractViolation_iff, width, lsb]; simp
  rw [Request.specStatus, if_neg noIllegal, if_neg noContract, if_neg (not_overflows_of_zero width b)]

theorem eval_eq_contract_of_width_gt {r : Request} (code : r.op.toNat ≤ 0x9) (width : 64 < r.width.toNat) :
    eval r = .contract :=
  (eval_eq_contract_iff r).2 ((contractViolation_iff r).2 (by omega))

/-- The value 1 does not fit an empty field. -/
theorem eval_eq_overflow_of_one {r : Request} (insertion : r.op = 0x8 ∨ r.op = 0x9) (width : r.width = 0)
    (lsb : r.lsb = 0) (b : r.b = 1) : eval r = .overflow := by
  have valid : r.validDescriptor = true := by rw [validDescriptor_iff, width, lsb]; decide
  rw [eval_eq_overflow_iff, overflows_iff, width, b]
  exact ⟨valid, insertion.imp (⟨·, rfl⟩) (⟨·, rfl⟩)⟩

/-! ## The obligations -/

/-- Settles O8: the fault is the table's condition, which reads neither `a` nor `b`. -/
theorem contractExactlyInTable : Obligations.ContractExactlyInTable := by
  refine ⟨fun s => ?table, fun s a b => ?anyData⟩
  case table => rw [step_eq_contract_iff, contractViolation_iff]
  case anyData =>
    rw [step_eq_contract_iff, step_eq_contract_iff, State.drive_ports]
    exact Iff.rfl

/-- Settles O9: the condition is `Request.overflows`; extractions are no insertions, and the value 0 fits width 0. -/
theorem overflowExactlyOnMisfit : Obligations.OverflowExactlyOnMisfit := by
  refine ⟨fun s => ?condition, fun s extraction => ?extract, fun s width b => ?zero⟩
  case condition => rw [observe_step, eval_eq_overflow_iff, overflows_iff]
  case extract =>
    rw [observe_step]
    intro overflow
    obtain get | get := extraction <;> simpa [get] using op_of_eval_eq_overflow overflow
  case zero =>
    rw [observe_step, Ne, eval_eq_overflow_iff]
    exact not_overflows_of_zero width b

/-- Settles O10: a refusal is the decoder's, of a reserved code, and the host reads it as ILLEGAL. -/
theorem illegalExactlyOnReservedCodes : Obligations.IllegalExactlyOnReservedCodes := by
  refine ⟨fun s => ?refused, fun s e h => ((step_eq_refused_iff s e).1 h).2, fun h k r reserved => ?host⟩
  case refused => rw [step_eq_refused_iff, and_iff_left rfl]
  case host =>
    rw [HostState.issue_eq, (eval_eq_illegal_iff r).2 reserved]
    rfl

/-- Settles O11: the status is `Request.specStatus`, whose code is chosen condition by condition. -/
theorem statusPriority : Obligations.StatusPriority := by
  intro s
  rw [statusO_step, Request.specStatus]
  simp only [apply_ite Status.code]
  rfl

/-- Settles O12: each code belongs to one outcome, and the conditions of the outcomes say which operations raise it. The
witnesses drive every input but the code with 0, and then a width of 65, or a value of 1, to raise a failure. -/
theorem statusTable : Obligations.StatusTable := by
  refine ⟨fun s => ?okResult, fun s => ?overflowCodes, fun s => ?illegalCodes, fun c code => ⟨?canBeOk, ?canBeContract⟩,
    fun c insertion => ?canOverflow⟩
  case okResult =>
    rw [statusO_eq_ok_iff]
    exact exists_congr fun v => (and_iff_left_of_imp fun ok => by rw [ok]; rfl).symm
  case overflowCodes =>
    rw [statusO_eq_overflow_iff, observe_step]
    exact op_of_eval_eq_overflow
  case illegalCodes => rw [statusO_eq_illegal_iff, observe_step, eval_eq_illegal_iff]
  case canBeOk =>
    refine ⟨State.reset.drive { State.reset.ports with op := c }, rfl, ?_⟩
    rw [statusO_step, State.drive_ports, specStatus_eq_ok_of_zero code rfl rfl rfl, Status.code]
  case canBeContract =>
    refine ⟨State.reset.drive { State.reset.ports with op := c, width := 65 }, rfl, ?_⟩
    rw [observe_step, State.drive_ports, eval_eq_contract_of_width_gt code (show 64 < (65#32).toNat by decide)]
    rfl
  case canOverflow =>
    refine ⟨State.reset.drive { State.reset.ports with op := c, b := 1 }, rfl, ?_⟩
    rw [observe_step, State.drive_ports, eval_eq_overflow_of_one insertion rfl rfl rfl]
    rfl

end Sys2Proof.Machine

/-! PROOFS. Encoding and decoding undo each other (30_encoding.md R50 to R58), and the written requests of
95_test_vectors.md. -/

namespace Sys2Proof

/-! ## Numbers on a 32-bit port -/

/-- A number driven on a port is read back when it is one of the port's values (30_encoding.md R56). -/
theorem toNat_ofNat_of_fitsPort32 {n : Nat} (fits : fitsPort32 n = true) : (BitVec.ofNat 32 n).toNat = n :=
  (BitVec.toNat_ofNat n 32).trans (Nat.mod_eq_of_lt (decide_eq_true_iff.1 fits))

/-! ## Decode of encode -/

/-- The row of an instruction's own code gives the instruction back, once its numbers are read back from their ports. -/
theorem decode_encode {i : Instr} (wf : i.wellFormed = true) : decode (encode i) = .instr i := by
  cases i with
  | shlu | shru | shls | shrs | fitsu | fitss =>
    simp [encode, requestAW, decode, toNat_ofNat_of_fitsPort32 wf]
  | getu | gets | newu | news =>
    obtain ⟨width, lsb⟩ := Bool.and_eq_true_iff.1 wf
    simp [encode, requestField, decode, toNat_ofNat_of_fitsPort32 width, toNat_ofNat_of_fitsPort32 lsb]

/-- Settles O4: packing loses nothing of the encoded request, and decoding inverts the encoder. -/
theorem decodeOfPackedEncode : Obligations.DecodeOfPackedEncode := by
  intro i wf
  rw [unpack_pack, decode_encode wf]

/-! ## Encode of decode -/

/-- A decoded width, position or amount was read from its 32-bit port (30_encoding.md R56). -/
theorem wellFormed_of_decode {r : Request} {i : Instr} (h : decode r = .instr i) : i.wellFormed = true := by
  unfold decode at h
  split at h <;> cases h
  all_goals simp [Instr.wellFormed, Laws.fitsPort32_toNat]

/-- Encoding a decoded request drives the ports its operation reads with what they carried, and the others with 0
(30_encoding.md R52, R58). -/
theorem encode_of_decode {r : Request} {i : Instr} (h : decode r = .instr i) :
    encode i = { r with
      b := if 0x8 ≤ r.op.toNat then r.b else 0
      lsb := if 0x6 ≤ r.op.toNat then r.lsb else 0 } := by
  have op := Machine.encode_op_of_decode h
  unfold decode at h
  split at h <;> cases h
  all_goals simp [encode, requestAW, requestField, ← op]

/-- Settles O5: what is decoded was read from ports, so its numbers are in range and encoding drives the same ones. -/
theorem encodeOfDecode : Obligations.EncodeOfDecode := fun _ _ h =>
  ⟨wellFormed_of_decode h, encode_of_decode h⟩

/-- Settles O7: the four packed requests are closed words, and the decoder answers their operations. -/
theorem writtenRequestsDecode : Obligations.WrittenRequestsDecode := ⟨rfl, rfl, rfl, rfl⟩

end Sys2Proof

/-! PROOFS. Every step's answer and frame (20_memory.md R44, 60_exceptions.md R115, 70_reset_and_hazards.md R130, R134). -/

namespace Sys2Proof.Machine

/-! ## What a request that ends in a next state leaves unchanged -/

/-- Completing again with the outcome a next state carries answers that state. -/
theorem complete_setOutputs_of_next {o : BlockOutcome} {s t : State} (h : complete o s = .next t) :
    complete o (s.setOutputs o) = .next (s.setOutputs o) := by
  obtain ⟨-, ⟨v, rfl⟩ | rfl⟩ := complete_next h
  · exact complete_ok v _
  · exact complete_overflow _

/-- A step reads only the input ports, which setting the outputs leaves alone. -/
theorem step_setOutputs (s : State) (o : BlockOutcome) :
    step (s.setOutputs o) = complete (eval s.ports) (s.setOutputs o) :=
  step_eq_complete_eval _

/-- An operation that ends in a next state ends it with its outcome on the outputs, and with nothing else changed. -/
theorem exec_next {i : Instr} {s t : State} (h : exec i s = .next t) :
    t = s.setOutputs (outcomeOf i) ∧ ((∃ v, outcomeOf i = .ok v) ∨ outcomeOf i = .overflow) :=
  complete_next (exec_eq_complete i s ▸ h)

/-- A request is completed in one of three ways (60_exceptions.md R114, R116, R117). -/
theorem complete_answers (o : BlockOutcome) (s : State) :
    (∃ t, complete o s = .next t) ∨ complete o s = .fault .contract ∨ complete o s = .refused .illegal := by
  cases o with
  | ok v => exact .inl ⟨_, complete_ok v s⟩
  | overflow => exact .inl ⟨_, complete_overflow s⟩
  | contract => exact .inr (.inl (complete_contract s))
  | illegal => exact .inr (.inr rfl)

/-! ## The obligations -/

/-- Settles O1: the reset inputs are the request SHLU 0, 0, whose outcome is the one at reset. -/
theorem resetOutputsAreOutcomeOfInputs : Obligations.ResetOutputsAreOutcomeOfInputs := ⟨rfl, rfl⟩

/-- Settles O2: with the decoder's answer known, the step is the operation's own arm. -/
theorem stepRunsDecodedInstruction : Obligations.StepRunsDecodedInstruction := by
  intro s i decoded
  rw [step, evaluate, decoded]

/-- Settles O15: the next state differs in its outputs only, which the next step does not read. -/
theorem requestIsIdempotent : Obligations.RequestIsIdempotent := by
  intro s t h
  obtain ⟨rfl, -⟩ := step_next h
  refine ⟨State.setOutputs_ports s _, ?again⟩
  rw [step_setOutputs]
  exact complete_setOutputs_of_next (step_eq_complete_eval s ▸ h)

/-- Settles O16: an operation only sets the outputs, and of the outcomes it goes on from, OVERFLOW is an insertion's. -/
theorem execFrame : Obligations.ExecFrame := by
  intro i s t h
  obtain ⟨rfl, outcome⟩ := exec_next h
  exact ⟨rfl, rfl, rfl, rfl, rfl,
    outcome.imp_right fun overflow => ⟨overflow, newu_or_news_of_outcomeOf_eq_overflow overflow⟩⟩

/-- Settles O18: a step completes its request, whatever the outcome. -/
theorem noRequestStalls : Obligations.NoRequestStalls := by
  intro s
  rw [step_eq_complete_eval]
  exact complete_answers _ s

end Sys2Proof.Machine

/-! PROOFS. Host programs (30_encoding.md R61): what a statement can do to the host's state, the invariants every step
keeps, and the course of requests, branches and stopped programs. -/

namespace Sys2Proof.Machine

/-! ## Jumps -/

/-- A jump goes to a statement of the program, or stops on a missing label. -/
theorem HostState.jump_cases (program : List HostStmt) (h : HostState) (target : String) :
    (∃ pc, h.jump program target = h.goTo pc) ∨ h.jump program target = h.stopWith (.noLabel target) := by
  unfold HostState.jump
  split
  · exact .inl ⟨_, rfl⟩
  · exact .inr rfl

theorem HostState.jump_eq_goTo_of_first_label {before after : List HostStmt} {target : String}
    (first : .label target ∉ before) (h : HostState) :
    h.jump (before ++ .label target :: after) target = h.goTo before.length := by
  have place : (before ++ .label target :: after).findIdx? (fun stmt => decide (stmt = .label target)) =
      some before.length := by
    have notBefore : before.findIdx? (fun stmt => decide (stmt = .label target)) = none :=
      List.findIdx?_eq_none_iff.2 fun stmt mem => decide_eq_false fun same => first (same ▸ mem)
    simp [List.findIdx?_append, List.findIdx?_cons, notBefore]
  rw [HostState.jump, place]

theorem HostState.jump_eq_stopWith_of_no_label {program : List HostStmt} {target : String}
    (missing : .label target ∉ program) (h : HostState) :
    h.jump program target = h.stopWith (.noLabel target) := by
  have noPlace : program.findIdx? (fun stmt => decide (stmt = .label target)) = none :=
    List.findIdx?_eq_none_iff.2 fun stmt mem => decide_eq_false fun same => missing (same ▸ mem)
  rw [HostState.jump, noPlace]

/-! ## What a statement and a step can do -/

/-- A statement issues a request, goes on at some statement, or stops. -/
theorem HostState.execStmt_cases (program : List HostStmt) (h : HostState) (stmt : HostStmt) :
    (∃ k r, h.execStmt program stmt = h.issue k r) ∨ (∃ pc, h.execStmt program stmt = h.goTo pc) ∨
    ∃ stop, h.execStmt program stmt = h.stopWith stop := by
  have jump (target : String) : (∃ pc, h.jump program target = h.goTo pc) ∨
      ∃ stop, h.jump program target = h.stopWith stop := (h.jump_cases program target).imp_right fun e => ⟨_, e⟩
  cases stmt with
  | request k q =>
    rw [HostState.execStmt]
    split
    · exact .inl ⟨k, _, rfl⟩
    · exact .inr (.inr ⟨_, rfl⟩)
  | branch k status target =>
    rw [HostState.execStmt]
    split
    · split
      · exact .inr (jump target)
      · exact .inr (.inl ⟨_, rfl⟩)
    · exact .inr (.inr ⟨_, rfl⟩)
  | label => exact .inr (.inl ⟨_, rfl⟩)
  | goto target => exact .inr (jump target)
  | halt => exact .inr (.inr ⟨_, rfl⟩)

theorem hostStep_of_stopped (program : List HostStmt) {h : HostState} (stopped : h.stop ≠ none) :
    hostStep program h = h := by
  obtain ⟨stop, hstop⟩ := Option.ne_none_iff_exists'.1 stopped
  rw [hostStep, hstop]

theorem hostStep_of_running {program : List HostStmt} {h : HostState} {stmt : HostStmt} (running : h.stop = none)
    (current : program[h.pc]? = some stmt) : hostStep program h = h.execStmt program stmt := by
  rw [hostStep, running, current]

/-- What a step of a host program can do: nothing if it stopped, else issue a request, go on, or stop. -/
theorem hostStep_cases (program : List HostStmt) (h : HostState) :
    hostStep program h = h ∨ (h.stop = none ∧
      ((∃ k r, hostStep program h = h.issue k r) ∨ (∃ pc, hostStep program h = h.goTo pc) ∨
        ∃ stop, hostStep program h = h.stopWith stop)) := by
  by_cases running : h.stop = none
  · refine .inr ⟨running, ?_⟩
    cases current : program[h.pc]? with
    | some stmt => rw [hostStep_of_running running current]; exact h.execStmt_cases program stmt
    | none => exact .inr (.inr ⟨.offEnd, by rw [hostStep, running, current]⟩)
  · exact .inl (hostStep_of_stopped program running)

/-! ## Issuing a request -/

@[simp] theorem HostState.issue_block (h : HostState) (k : Nat) (r : Request) :
    (h.issue k r).block = h.block.drive r := by
  rw [HostState.issue_eq, HostState.afterStatus_block, HostState.record_block]

@[simp] theorem HostState.issue_outcomes (h : HostState) (k : Nat) (r : Request) :
    (h.issue k r).outcomes = (k, eval r) :: h.outcomes := by
  rw [HostState.issue_eq, HostState.afterStatus_outcomes, HostState.record_outcomes]

/-- The name of an issued request means its outcome. -/
theorem HostState.issue_outcome_same (h : HostState) (k : Nat) (r : Request) :
    (h.issue k r).outcome k = some (eval r) := by
  rw [HostState.outcome, HostState.issue_outcomes, List.lookup_cons_self]

theorem HostState.issue_outcome_of_ne (h : HostState) {j k : Nat} (r : Request) (other : j ≠ k) :
    (h.issue k r).outcome j = h.outcome j := by
  simp [HostState.outcome, List.lookup_cons, beq_false_of_ne other]

/-- After OK and OVERFLOW the host goes on (60_exceptions.md R117). -/
theorem HostState.issue_goes_on (h : HostState) (k : Nat) {r : Request}
    (final : eval r = .overflow ∨ ∃ v, eval r = .ok v) :
    (h.issue k r).stop = h.stop ∧ (h.issue k r).pc = h.pc + 1 := by
  rw [HostState.issue_eq]
  obtain overflow | ⟨v, ok⟩ := final
  · rw [overflow]; exact ⟨rfl, rfl⟩
  · rw [ok]; exact ⟨rfl, rfl⟩

/-- After CONTRACT it stops at the request (60_exceptions.md R116). -/
theorem HostState.issue_stops_on_contract (h : HostState) (k : Nat) {r : Request} (contract : eval r = .contract) :
    (h.issue k r).stop = some .contract ∧ (h.issue k r).pc = h.pc := by
  rw [HostState.issue_eq, contract]
  exact ⟨rfl, rfl⟩

/-- An issued request that stops the host neither on CONTRACT nor on ILLEGAL had neither outcome. -/
theorem HostState.issue_status_of_no_fault {h : HostState} {k : Nat} {r : Request}
    (noContract : (h.issue k r).stop ≠ some .contract) (noIllegal : (h.issue k r).stop ≠ some .illegal) :
    (eval r).status = .ok ∨ (eval r).status = .overflow := by
  rw [HostState.issue_eq] at noContract noIllegal
  cases outcome : eval r with
  | ok => exact .inl rfl
  | overflow => exact .inr rfl
  | contract => rw [outcome] at noContract; exact absurd rfl noContract
  | illegal => rw [outcome] at noIllegal; exact absurd rfl noIllegal

/-! ## Outputs that are the outcome of the inputs -/

theorem State.setOutputs_eval_settled (s : State) : (s.setOutputs (eval s.ports)).Settled := rfl

theorem State.drive_settled (s : State) (r : Request) : (s.drive r).Settled := rfl

/-- Settles O17: a step sets the outputs to the outcome of the inputs, driving does so at once, and a host program drives
the block or leaves it alone. -/
theorem stepKeepsOutputsSettled : Obligations.StepKeepsOutputsSettled := by
  have reaches {s t : State} (h : step s = .next t) : t.Settled := by
    obtain ⟨rfl, -⟩ := step_next h
    exact s.setOutputs_eval_settled
  refine ⟨fun s t _ => reaches, fun s t => reaches, fun s t settled h => ?unchanged,
    fun s r => ⟨s.drive_settled r, s.drive_ports r⟩, fun h k r => ?issue, fun program h settled => ?host⟩
  case unchanged =>
    obtain ⟨rfl, -⟩ := step_next h
    rw [← settled, State.setOutputs_self]
  case issue =>
    rw [HostState.issue_block]
    exact ⟨State.drive_settled _ r, State.drive_ports _ r⟩
  case host =>
    obtain same | ⟨-, ⟨k, r, issue⟩ | ⟨pc, goTo⟩ | ⟨stop, stopWith⟩⟩ := hostStep_cases program h
    · rwa [same]
    · rw [issue, HostState.issue_block]; exact State.drive_settled _ r
    · rwa [goTo, HostState.goTo_block]
    · rwa [stopWith, HostState.stopWith_block]

/-! ## No fault is held while a program runs -/

/-- Settles O42: only issuing a request adds an outcome, and after a failed one the program has stopped on it; a program
that is still running before the step meets the invariant's premise. -/
theorem runningProgramHoldsNoFault : Obligations.RunningProgramHoldsNoFault := by
  intro program h invariant noContract noIllegal
  obtain same | ⟨running, step⟩ := hostStep_cases program h
  · rw [same] at noContract noIllegal ⊢
    exact invariant noContract noIllegal
  have before := invariant (by simp [running]) (by simp [running])
  obtain ⟨k, r, issue⟩ | ⟨pc, goTo⟩ | ⟨stop, stopWith⟩ := step
  · rw [issue] at noContract noIllegal ⊢
    rw [HostState.issue_outcomes, List.forall_mem_cons]
    exact ⟨HostState.issue_status_of_no_fault noContract noIllegal, before⟩
  · rwa [goTo, HostState.goTo_outcomes]
  · rwa [stopWith, HostState.stopWith_outcomes]

/-! ## The course of a program -/

theorem BlockOutcome.status_eq_overflow_iff (o : BlockOutcome) : o.status = .overflow ↔ o = .overflow := by
  cases o <;> simp [BlockOutcome.status]

/-- Settles O41: a request that assembles is issued, which records its outcome and does what its status asks. -/
theorem hostIssuesRequests : Obligations.HostIssuesRequests := by
  refine ⟨fun program h k q r running current assembled => ?issued, fun h k r reserved => ?illegal⟩
  case issued =>
    have issue : hostStep program h = h.issue k r := by
      rw [hostStep_of_running running current, HostState.execStmt, assembled]
    rw [issue]
    exact ⟨h.issue_outcome_same k r, fun _ => h.issue_outcome_of_ne r, fun final => running ▸ h.issue_goes_on k final,
      h.issue_stops_on_contract k⟩
  case illegal => rw [HostState.issue_outcome_same, (eval_eq_illegal_iff r).2 reserved]

/-- Settles O43: the branch compares the outcome's status with OVERFLOW, and a taken one is a jump to the label's first
place. -/
theorem hostBranchesOnOverflow : Obligations.HostBranchesOnOverflow := by
  intro program h k target o running current outcome
  have step : hostStep program h = if o = .overflow then h.jump program target else h.goTo (h.pc + 1) := by
    rw [hostStep_of_running running current, HostState.execStmt, outcome]
    simp only [BlockOutcome.status_eq_overflow_iff]
  refine ⟨fun other => ?notTaken, fun before after overflow split first => ?taken, fun overflow missing => ?noLabel⟩
  case notTaken => rw [step, if_neg other]
  case taken => rw [step, if_pos overflow, split, HostState.jump_eq_goTo_of_first_label first]
  case noLabel => rw [step, if_pos overflow, HostState.jump_eq_stopWith_of_no_label missing]

/-- Settles O44, by induction on the number of steps, each of which leaves the stopped state as it is. -/
theorem stoppedProgramStaysStopped : Obligations.StoppedProgramStaysStopped := by
  intro program n h stopped
  induction n with
  | zero => rfl
  | succ n ih => rw [hostRun, hostStep_of_stopped program stopped, ih]

end Sys2Proof.Machine

/-! PROOFS. The assembler (30_encoding.md R58, R59): the ranges of its literals, and the requests it emits. -/

namespace Sys2Proof.Machine

/-! ## The ranges of the operands -/

theorem inRange_natural32_iff (v : Int) : OperandKind.natural32.inRange v = true ↔ 0 ≤ v ∧ v < 2 ^ 32 := by
  rw [OperandKind.inRange, Bool.and_eq_true, decide_eq_true_iff, decide_eq_true_iff]

theorem inRange_unsigned64_iff (v : Int) : OperandKind.unsigned64.inRange v = true ↔ 0 ≤ v ∧ v < 2 ^ 64 := by
  rw [OperandKind.inRange, Bool.and_eq_true, decide_eq_true_iff, decide_eq_true_iff]

theorem inRange_signed64_iff (v : Int) :
    OperandKind.signed64.inRange v = true ↔ -(2 : Int) ^ 63 ≤ v ∧ v < 2 ^ 64 := by
  rw [OperandKind.inRange, Bool.and_eq_true, decide_eq_true_iff, decide_eq_true_iff]

/-! ## Operand by operand -/

section AssembleOperands

variable {results : Nat → Option Word} {port : OperandPort} {kind : OperandKind}
  {signature : List (OperandPort × OperandKind)} {operand : Operand} {operands : List Operand} {r r' : Request}

/-- With no operand left to drive the request is emitted as it stands. -/
theorem assembleOperands_nil_eq_ok_iff : assembleOperands results [] [] r = .ok r' ↔ r' = r := by
  rw [assembleOperands, Except.ok.injEq, eq_comm]

/-- A request is emitted only after its first operand's number was in range and driven on its port. -/
theorem assembleOperands_cons_eq_ok_iff :
    assembleOperands results ((port, kind) :: signature) (operand :: operands) r = .ok r' ↔
      ∃ v, operand.number results = .ok v ∧ kind.inRange v = true ∧
        assembleOperands results signature operands (port.drive v r) = .ok r' := by
  rw [assembleOperands]
  cases operand.number results with
  | error e => simp
  | ok v => cases inRange : kind.inRange v <;> simp [inRange]

/-- A literal is its own number (30_encoding.md R58). -/
theorem assembleOperands_literal_eq_ok_iff {v : Int} :
    assembleOperands results ((port, kind) :: signature) (.literal v :: operands) r = .ok r' ↔
      kind.inRange v = true ∧ assembleOperands results signature operands (port.drive v r) = .ok r' := by
  simp [assembleOperands_cons_eq_ok_iff, Operand.number]

end AssembleOperands

/-- Operands are driven on the four ports beside the operation's. -/
@[simp] theorem OperandPort.drive_op (p : OperandPort) (v : Int) (r : Request) : (p.drive v r).op = r.op := by
  cases p <;> rfl

/-- No operand changes the operation's code, by induction on the operands still to be driven. -/
theorem op_of_assembleOperands {results : Nat → Option Word} {signature : List (OperandPort × OperandKind)}
    {operands : List Operand} {r r' : Request} (h : assembleOperands results signature operands r = .ok r') :
    r'.op = r.op := by
  induction signature generalizing operands r with
  | nil =>
    cases operands with
    | nil => rw [assembleOperands_nil_eq_ok_iff.1 h]
    | cons => cases h
  | cons entry signature ih =>
    cases operands with
    | nil => cases h
    | cons =>
      obtain ⟨v, -, -, rest⟩ := assembleOperands_cons_eq_ok_iff.1 h
      rw [ih rest, OperandPort.drive_op]

/-! ## Emitted requests -/

/-- An emitted request has its mnemonic's code (30_encoding.md R51). -/
theorem op_of_assemble {results : Nat → Option Word} {q : AsmRequest} {r : Request} (h : assemble results q = .ok r) :
    r.op = q.mnemonic.code :=
  op_of_assembleOperands h

/-- The ten mnemonics have the ten codes of operations (30_encoding.md R51). -/
theorem Mnemonic.code_le (m : Mnemonic) : m.code.toNat ≤ 0x9 := by
  cases m <;> decide

/-- A code that is not reserved decodes to an operation (30_encoding.md R54). -/
theorem exists_instr_of_op_le {r : Request} (h : r.op.toNat ≤ 0x9) : ∃ i, decode r = .instr i := by
  cases decoded : decode r with
  | instr i => exact ⟨i, rfl⟩
  | reserved op =>
    have illegal : eval r = .illegal := by rw [eval_eq_outcome, decoded, decodedOutcome]
    have := (eval_eq_illegal_iff r).1 illegal
    omega

/-! ## The obligations -/

/-- Settles O39: the operands are checked and driven one after another along the mnemonic's signature, so the request is
emitted under all their ranges together. -/
theorem assemblerLiteralRanges : Obligations.AssemblerLiteralRanges := by
  refine ⟨fun results m v w hm r => ?unsigned, fun results m v w hm r => ?signed, fun results m v w l hm r => ?extract,
    fun results m v w l x hm r => ?insert⟩
  case' unsigned | signed => obtain rfl | rfl | rfl := hm
  case' extract | insert => obtain rfl | rfl := hm
  all_goals
    simp [assemble, Mnemonic.signature, assembleOperands_literal_eq_ok_iff, assembleOperands_nil_eq_ok_iff,
      inRange_unsigned64_iff, inRange_signed64_iff, inRange_natural32_iff, OperandPort.drive, and_assoc]

/-- Settles O40: the request has its mnemonic's code, and that code's row of the table names the operation. -/
theorem assembledRequestsAreLegal : Obligations.AssembledRequestsAreLegal := by
  intro results q r assembled
  have op : r.op = q.mnemonic.code := op_of_assemble assembled
  have code : r.op.toNat ≤ 0x9 := op ▸ q.mnemonic.code_le
  have opOf {m : Mnemonic} (h : q.mnemonic = m) : r.op = m.code := h ▸ op
  have row {m : Mnemonic} (h : q.mnemonic = m) : decode r = decode { r with op := m.code } := decode_eq_of_op (opOf h)
  obtain ⟨i, decoded⟩ := exists_instr_of_op_le code
  exact ⟨fun h => ⟨opOf h, _, _, row h⟩, fun h => ⟨opOf h, _, _, row h⟩, fun h => ⟨opOf h, _, _, row h⟩,
    fun h => ⟨opOf h, _, _, row h⟩, fun h => ⟨opOf h, _, _, row h⟩, fun h => ⟨opOf h, _, _, row h⟩,
    fun h => ⟨opOf h, _, _, _, row h⟩, fun h => ⟨opOf h, _, _, _, row h⟩, fun h => ⟨opOf h, _, _, _, _, row h⟩,
    fun h => ⟨opOf h, _, _, _, _, row h⟩, ⟨i, decoded, wellFormed_of_decode decoded⟩,
    by rw [Ne, eval_eq_illegal_iff]; omega⟩

end Sys2Proof.Machine

/-! PROOFS. Shifts, extractions and insertions as numbers (40_shift.md R73, 42_extract.md R94, 43_insert.md R104): a field
is `BitVec.extractLsb'` of its word, GETU zero-extends it, GETS sign-extends it, and an insertion replaces it. -/

namespace Sys2Proof.Machine

/-! ## The arithmetic shift -/

/-- SHRS's result as a signed number: the quotient rounded toward minus infinity (40_shift.md R73). -/
theorem sar64_toInt (v : Word) {amount : Nat} (h : amount < 64) : (sar64 v amount).toInt = v.toInt / 2 ^ amount := by
  rw [sar64, if_neg h.ne, BitVec.toInt_sshiftRight, Int.shiftRight_eq_div_pow]
  norm_cast

/-- Settles O24: below 64 the result is `sar64`'s, whose signed value is the quotient. -/
theorem shrsIsFloorDivision : Obligations.ShrsIsFloorDivision := by
  intro n amount s below
  exact ⟨sar64 n amount, exec_shift_of_le rfl below.le s, sar64_toInt n below⟩

/-! ## Extraction as extension of the field -/

section Field

variable (word : Word) {width lsb : Nat}

/-- GETU zero-extends the field (42_extract.md R90). -/
theorem getUnsigned_eq_setWidth (valid : width + lsb ≤ 64) :
    getUnsigned word width lsb = (word.extractLsb' lsb width).setWidth 64 := by
  refine BitVec.eq_of_getLsbD_eq fun i hi => ?_
  rw [getUnsigned_bit word valid, BitVec.getLsbD_setWidth, BitVec.getLsbD_extractLsb', decide_eq_true hi, Bool.true_and]

/-- The field's top bit; a field of width 0 has none. -/
theorem field_msb (valid : width + lsb ≤ 64) :
    (word.extractLsb' lsb width).msb = (decide (0 < width) && word.getLsbD (lsb + width - 1)) := by
  obtain rfl | positive := Nat.eq_zero_or_pos width
  · rfl
  · rw [BitVec.msb_eq_getLsbD_last, BitVec.getLsbD_extractLsb', decide_eq_true (show width - 1 < width by omega),
      decide_eq_true positive, Nat.add_sub_assoc positive]

/-- GETS sign-extends the field (42_extract.md R91). -/
theorem getSigned_eq_signExtend (valid : width + lsb ≤ 64) :
    getSigned word width lsb = (word.extractLsb' lsb width).signExtend 64 := by
  obtain rfl | positive := Nat.eq_zero_or_pos width
  · rw [getSigned_zero_width, BitVec.eq_nil (BitVec.extractLsb' lsb 0 word)]; decide
  refine BitVec.eq_of_getLsbD_eq fun i hi => ?_
  rw [getSigned_bit word positive valid hi, BitVec.getLsbD_signExtend, BitVec.getLsbD_extractLsb', field_msb word valid,
    decide_eq_true hi, decide_eq_true positive, Bool.true_and, Bool.true_and]
  by_cases inField : i < width
  · rw [if_pos inField, decide_eq_true inField, Bool.true_and, Nat.min_eq_left (by omega)]
  · rw [if_neg inField, Nat.min_eq_right (by omega), Nat.add_sub_assoc positive]

theorem field_toNat (width lsb : Nat) : (word.extractLsb' lsb width).toNat = word.toNat / 2 ^ lsb % 2 ^ width := by
  rw [BitVec.extractLsb'_toNat, Nat.shiftRight_eq_div_pow]

theorem getUnsigned_toNat (upTo64 : width ≤ 64) (valid : width + lsb ≤ 64) :
    (getUnsigned word width lsb).toNat = word.toNat / 2 ^ lsb % 2 ^ width := by
  rw [getUnsigned_eq_setWidth word valid, BitVec.toNat_setWidth_of_le upTo64, field_toNat]

theorem getSigned_toInt (upTo64 : width ≤ 64) (valid : width + lsb ≤ 64) :
    (getSigned word width lsb).toInt = (word.extractLsb' lsb width).toInt := by
  rw [getSigned_eq_signExtend word valid, BitVec.toInt_signExtend_of_le upTo64]

/-- GETS is GETU with the field's range subtracted when the top bit is 1 (42_extract.md R94 item 3). -/
theorem getSigned_toInt_eq_ite (upTo64 : width ≤ 64) (valid : width + lsb ≤ 64) :
    (getSigned word width lsb).toInt =
      if width = 0 ∨ word.getLsbD (lsb + width - 1) = false then ((getUnsigned word width lsb).toNat : Int)
      else ((getUnsigned word width lsb).toNat : Int) - 2 ^ width := by
  have topBit : (word.extractLsb' lsb width).msb = true ↔ ¬(width = 0 ∨ word.getLsbD (lsb + width - 1) = false) := by
    rw [field_msb word valid]
    simp [Nat.pos_iff_ne_zero]
  rw [getSigned_toInt word upTo64 valid, BitVec.toInt_eq_msb_cond, getUnsigned_toNat word upTo64 valid, field_toNat]
  simp only [topBit, ite_not, Nat.cast_pow, Nat.cast_ofNat]

end Field

/-- Settles O31: GETU's and GETS's results are the field's unsigned and signed numbers, which differ by `2^width` exactly
when there is a top bit and it is 1. -/
theorem extractionLaws : Obligations.ExtractionLaws := by
  refine ⟨fun word lsb s hlsb => ?widthZero, fun s => ⟨rfl, rfl⟩, fun word width lsb s upTo64 valid => ?numbers⟩
  case widthZero => exact exec_getu_of_valid word (validField_zero_width hlsb) s
  case numbers =>
    have descriptor := (validField_iff width lsb).2 ⟨upTo64, valid⟩
    have signed := getSigned_toInt_eq_ite word upTo64 valid
    refine ⟨getUnsigned word width lsb, getSigned word width lsb, exec_getu_of_valid word descriptor s,
      exec_gets_of_valid word descriptor s, getUnsigned_toNat word upTo64 valid, signed, ?agree⟩
    have range : (0 : Int) < 2 ^ width := by positivity
    rw [signed]
    split
    case isTrue agrees => exact iff_of_true rfl agrees
    case isFalse differs => exact iff_of_false (by omega) differs

/-- Settles O32: GETS's mechanism is the two shifts, by amounts up to 64. -/
theorem getsIsTwoShifts : Obligations.GetsIsTwoShifts := by
  intro word width lsb s upTo64 valid
  refine ⟨shl64 word (64 - (width + lsb)), exec_shift_of_le rfl (Nat.sub_le 64 _) s, ?secondShift⟩
  rw [exec_shift_of_le rfl (Nat.sub_le 64 width), exec_gets_of_valid word ((validField_iff width lsb).2 ⟨upTo64, valid⟩),
    getSigned]

/-! ## Insertion as replacement of the field -/

/-- The word `v` is `word` with the low bits of `value` in its field, bit by bit (43_insert.md R100). -/
def FieldReplaced (word value : Word) (width lsb : Nat) (v : Word) : Prop :=
  ∀ i, i < 64 → v.getLsbD i = if lsb ≤ i ∧ i < lsb + width then value.getLsbD (i - lsb) else word.getLsbD i

section Insert

variable {word value : Word} {width lsb : Nat}

theorem newUnsigned_fieldReplaced (valid : width + lsb ≤ 64) (fits : fitsu (uint value) width = true) :
    FieldReplaced word value width lsb (newUnsigned word width lsb value) :=
  fun _ => newUnsigned_bit word valid (bit_beyond_of_fitsu fits)

theorem newSigned_fieldReplaced (valid : width + lsb ≤ 64) :
    FieldReplaced word value width lsb (newSigned word width lsb value) :=
  fun _ => newSigned_bit word value valid

/-- Past bit 63 there is no field and neither word has a bit. -/
theorem FieldReplaced.bit {v : Word} (replaced : FieldReplaced word value width lsb v) (valid : width + lsb ≤ 64)
    (i : Nat) :
    v.getLsbD i = if lsb ≤ i ∧ i < lsb + width then value.getLsbD (i - lsb) else word.getLsbD i := by
  obtain hi | hi := Nat.lt_or_ge i 64
  · exact replaced i hi
  · rw [if_neg (by omega), BitVec.getLsbD_of_ge v i hi, BitVec.getLsbD_of_ge word i hi]

/-- The field of a word it was replaced in is the value's low bits. -/
theorem FieldReplaced.field {v : Word} (replaced : FieldReplaced word value width lsb v) (valid : width + lsb ≤ 64) :
    v.extractLsb' lsb width = value.setWidth width := by
  refine BitVec.eq_of_getLsbD_eq fun i hi => ?_
  rw [BitVec.getLsbD_extractLsb', BitVec.getLsbD_setWidth, replaced.bit valid, if_pos (by omega),
    Nat.add_sub_cancel_left]

/-- As a number: the word's bits above the field, the value's low bits, and the word's bits below it. -/
theorem FieldReplaced.toNat {v : Word} (replaced : FieldReplaced word value width lsb v) (valid : width + lsb ≤ 64) :
    v.toNat = word.toNat / 2 ^ (lsb + width) * 2 ^ (lsb + width) + value.toNat % 2 ^ width * 2 ^ lsb
      + word.toNat % 2 ^ lsb := by
  have places : word.toNat / 2 ^ (lsb + width) * 2 ^ (lsb + width) + value.toNat % 2 ^ width * 2 ^ lsb
      + word.toNat % 2 ^ lsb =
      2 ^ lsb * (2 ^ width * (word.toNat / 2 ^ (lsb + width)) + value.toNat % 2 ^ width) + word.toNat % 2 ^ lsb := by
    rw [pow_add]; ring
  have below : word.toNat % 2 ^ lsb < 2 ^ lsb := Nat.mod_lt _ (Nat.two_pow_pos lsb)
  have inField : value.toNat % 2 ^ width < 2 ^ width := Nat.mod_lt _ (Nat.two_pow_pos width)
  refine Nat.eq_of_testBit_eq fun j => ?_
  rw [places, Nat.testBit_two_pow_mul_add _ below, Nat.testBit_two_pow_mul_add _ inField]
  simp only [Nat.testBit_mod_two_pow, Nat.testBit_div_two_pow, BitVec.testBit_toNat, replaced.bit valid]
  obtain h | h | h : j < lsb ∨ (lsb ≤ j ∧ j < lsb + width) ∨ lsb + width ≤ j := by omega
  · simp [h, h.not_ge]
  · simp [h, h.1.not_gt, show j - lsb < width by omega]
  · simp [h.not_gt, show ¬ j < lsb by omega, show ¬ j - lsb < width by omega,
      show j - lsb - width + (lsb + width) = j by omega]

/-- A signed value that fits is the sign extension of its low bits (43_insert.md R104 item 2). -/
theorem signExtend_setWidth_of_fitss (upTo64 : width ≤ 64) (fits : fitss (sint value) width = true) :
    (value.setWidth width).signExtend 64 = value := by
  obtain rfl | positive := Nat.eq_zero_or_pos width
  · rw [(fitss_zero_width_iff value).1 fits]; decide
  obtain ⟨least, greatest⟩ := (fitss_iff _ positive.ne').1 fits
  refine BitVec.eq_of_toInt_eq ?_
  rw [BitVec.toInt_signExtend_of_le upTo64, ← BitVec.signExtend_eq_setWidth_of_le value upTo64,
    BitVec.toInt_signExtend_eq_toInt_bmod_of_le value upTo64, ← BitVec.toInt_ofInt,
    BitVec.toInt_ofInt_eq_self positive least greatest]

/-- An unsigned value that fits is the zero extension of its low bits (43_insert.md R104 item 1). -/
theorem setWidth_setWidth_of_fitsu (fits : fitsu (uint value) width = true) :
    (value.setWidth width).setWidth 64 = value := by
  refine BitVec.eq_of_toNat_eq ?_
  rw [BitVec.toNat_setWidth, BitVec.toNat_setWidth, Nat.mod_eq_of_lt ((fitsu_iff _ _).1 fits),
    Nat.mod_eq_of_lt value.isLt]

end Insert

/-- Settles O35: the field read back is the value's low bits, whose zero extension is the value. -/
theorem insertThenExtractUnsigned : Obligations.InsertThenExtractUnsigned := by
  intro word value width lsb s t upTo64 valid fits
  have descriptor := (validField_iff width lsb).2 ⟨upTo64, valid⟩
  refine ⟨newUnsigned word width lsb value, exec_newu_of_fits word value descriptor fits s, ?readBack⟩
  rw [exec_getu_of_valid _ descriptor, getUnsigned_eq_setWidth _ valid,
    (newUnsigned_fieldReplaced valid fits).field valid, setWidth_setWidth_of_fitsu fits]

/-- Settles O36: the field read back is the value's low bits, whose sign extension is the value. -/
theorem insertThenExtractSigned : Obligations.InsertThenExtractSigned := by
  intro word value width lsb s t upTo64 valid fits
  have descriptor := (validField_iff width lsb).2 ⟨upTo64, valid⟩
  refine ⟨newSigned word width lsb value, exec_news_of_fits word value descriptor fits s, ?readBack⟩
  rw [exec_gets_of_valid _ descriptor, getSigned_eq_signExtend _ valid, (newSigned_fieldReplaced valid).field valid,
    signExtend_setWidth_of_fitss upTo64 fits]

end Sys2Proof.Machine

/-! PROOFS. The mechanisms against the rules' value formulas in whole-number arithmetic (40_shift.md R70 to R73, 41_fit.md
R80 and R81, 42_extract.md R90 and R91, 43_insert.md R100 and R101). -/

namespace Sys2Proof.Machine

/-! ## When a family's outcome is OK -/

theorem shiftOutcome_eq_ok_iff (primitive : Word → Nat → Word) (n : Word) (amount : Nat) (v : Word) :
    shiftOutcome primitive n amount = .ok v ↔ amount ≤ 64 ∧ v = primitive n amount := by
  obtain ⟨above, h⟩ | ⟨upTo64, h⟩ := shiftOutcome_cases primitive n amount
  · simp [h, above.not_ge]
  · simp [h, upTo64, eq_comm]

theorem fitOutcome_eq_ok_iff (width : Nat) (answer : Nat → Bool) (v : Word) :
    fitOutcome width answer = .ok v ↔ width ≤ 64 ∧ v = boolWord (answer width) := by
  obtain ⟨above, h⟩ | ⟨upTo64, h⟩ := fitOutcome_cases width answer
  · simp [h, above.not_ge]
  · simp [h, upTo64, eq_comm]

theorem extractOutcome_eq_ok_iff (extract : Word → Nat → Nat → Word) (word : Word) (width lsb : Nat) (v : Word) :
    extractOutcome extract word width lsb = .ok v ↔
      (width ≤ 64 ∧ width + lsb ≤ 64) ∧ v = extract word width lsb := by
  rw [← validField_iff]
  obtain ⟨invalid, h⟩ | ⟨valid, h⟩ := extractOutcome_cases extract word width lsb
  · simp [h, invalid]
  · simp [h, valid, eq_comm]

theorem insertOutcome_eq_ok_iff (insert : Word → Nat → Nat → Word → Word) (fits : Nat → Bool) (word value : Word)
    (width lsb : Nat) (v : Word) :
    insertOutcome insert fits word width lsb value = .ok v ↔
      (width ≤ 64 ∧ width + lsb ≤ 64) ∧ fits width = true ∧ v = insert word width lsb value := by
  rw [← validField_iff]
  obtain ⟨invalid, h⟩ | ⟨valid, misfit, h⟩ | ⟨valid, fit, h⟩ := insertOutcome_cases insert fits word width lsb value
  · simp [h, invalid]
  · simp [h, misfit]
  · simp [h, valid, fit, eq_comm]

/-! ## The shifts at every amount up to 64 -/

section Shift

variable (v : Word) {amount : Nat}

/-- At 64 the product is a multiple of `2^64`. -/
theorem shl64_eq_ofNat_of_le (h : amount ≤ 64) : shl64 v amount = BitVec.ofNat 64 (v.toNat * 2 ^ amount) := by
  obtain below | rfl := h.lt_or_eq
  · exact shl64_eq_ofNat v below
  · rw [shl64_at_64]; exact BitVec.eq_of_toNat_eq (by rw [BitVec.toNat_ofNat, Nat.mul_mod_left]; rfl)

/-- At 64 the signed product is a multiple of `2^64` too. -/
theorem shl64_eq_ofInt_of_le (h : amount ≤ 64) : shl64 v amount = BitVec.ofInt 64 (v.toInt * 2 ^ amount) := by
  obtain below | rfl := h.lt_or_eq
  · exact shl64_eq_ofInt v below
  · rw [shl64_at_64, BitVec.ofInt_mul]; exact (mul_zero _).symm

/-- At 64 the quotient of a word is 0. -/
theorem shr64_eq_ofNat_of_le (h : amount ≤ 64) : shr64 v amount = BitVec.ofNat 64 (v.toNat / 2 ^ amount) := by
  obtain below | rfl := h.lt_or_eq
  · exact shr64_eq_ofNat v below
  · rw [shr64_at_64, Nat.div_eq_of_lt v.isLt]; rfl

/-- At 64 the arithmetic shift is 0 and not the quotient, which is −1 for a negative number (40_shift.md R75). -/
theorem sar64_eq_ite (h : amount ≤ 64) :
    sar64 v amount = if amount = 64 then 0 else BitVec.ofInt 64 (v.toInt / 2 ^ amount) := by
  split
  case isTrue at64 => rw [at64, sar64_at_64]
  case isFalse below => rw [← sar64_toInt v (h.lt_of_ne below), BitVec.ofInt_toInt]

end Shift

/-! ## The fit tests -/

theorem boolWord_eq_ite {answer : Bool} {p : Prop} [Decidable p] (answers : answer = true ↔ p) :
    boolWord answer = if p then 1 else 0 := by
  simp only [boolWord, answers]

/-- The signed range with its width-0 case apart (41_fit.md R81, 90_conflicts.md C1). -/
theorem boolWord_fitss (value : Word) (width : Nat) :
    boolWord (fitss (sint value) width) =
      if width = 0 then (if value.toInt = 0 then 1 else 0)
      else if -(2 : Int) ^ (width - 1) ≤ value.toInt ∧ value.toInt < (2 : Int) ^ (width - 1) then 1 else 0 := by
  split
  case isTrue empty => rw [empty, boolWord_eq_ite (fitss_zero_iff value.toInt)]
  case isFalse nonempty => exact boolWord_eq_ite (fitss_iff value.toInt nonempty)

/-! ## The field operations on the ports -/

section Ports

variable {r : Request}

theorem field_toNat_eq_fieldNumber (r : Request) :
    (r.a.extractLsb' r.lsb.toNat r.width.toNat).toNat = r.fieldNumber :=
  field_toNat r.a r.width.toNat r.lsb.toNat

/-- The field in two's complement: its top bit is 1 from half its range on. -/
theorem field_toInt_eq_fieldInteger (r : Request) :
    (r.a.extractLsb' r.lsb.toNat r.width.toNat).toInt = r.fieldInteger := by
  rw [BitVec.toInt_eq_toNat_cond, field_toNat_eq_fieldNumber, Request.fieldInteger]
  obtain empty | positive := Nat.eq_zero_or_pos r.width.toNat
  · simp [Request.fieldNumber, empty, Nat.mod_one]
  · have half : 2 ^ r.width.toNat = 2 * 2 ^ (r.width.toNat - 1) := by rw [← pow_succ', Nat.sub_add_cancel positive]
    have topBit : 2 * r.fieldNumber < 2 ^ r.width.toNat ↔ r.fieldNumber < 2 ^ (r.width.toNat - 1) := by omega
    simp only [topBit, if_neg positive.ne', Nat.cast_pow, Nat.cast_ofNat]

theorem getUnsigned_eq_ofNat_fieldNumber (valid : r.width.toNat + r.lsb.toNat ≤ 64) :
    getUnsigned r.a r.width.toNat r.lsb.toNat = BitVec.ofNat 64 r.fieldNumber := by
  rw [getUnsigned_eq_setWidth r.a valid, ← field_toNat_eq_fieldNumber, BitVec.ofNat_toNat]

theorem getSigned_eq_ofInt_fieldInteger (upTo64 : r.width.toNat ≤ 64) (valid : r.width.toNat + r.lsb.toNat ≤ 64) :
    getSigned r.a r.width.toNat r.lsb.toNat = BitVec.ofInt 64 r.fieldInteger := by
  rw [← field_toInt_eq_fieldInteger, ← getSigned_toInt r.a upTo64 valid, BitVec.ofInt_toInt]

/-- A word whose field was replaced is the number with the value's low bits in the field's place. -/
theorem eq_ofNat_replacedField {v : Word} (valid : r.width.toNat + r.lsb.toNat ≤ 64)
    (replaced : FieldReplaced r.a r.b r.width.toNat r.lsb.toNat v) :
    v = BitVec.ofNat 64 (r.replacedField (r.b.toNat % 2 ^ r.width.toNat)) := by
  rw [Request.replacedField, ← replaced.toNat valid, BitVec.ofNat_toNat, BitVec.setWidth_eq]

theorem newUnsigned_eq_ofNat_replacedField (valid : r.width.toNat + r.lsb.toNat ≤ 64)
    (fits : fitsu (uint r.b) r.width.toNat = true) :
    newUnsigned r.a r.width.toNat r.lsb.toNat r.b = BitVec.ofNat 64 (r.replacedField r.b.toNat) := by
  rw [eq_ofNat_replacedField valid (newUnsigned_fieldReplaced valid fits), Nat.mod_eq_of_lt ((fitsu_iff _ _).1 fits)]

end Ports

/-! ## Every request -/

/-- The result of a completed request is its rule's formula, operation by operation (60_exceptions.md R110). -/
theorem specResult_of_eval_eq_ok {r : Request} {v : Word} (h : eval r = .ok v) : r.specResult = some v := by
  rw [eval_eq_outcome] at h
  unfold decode at h
  split at h
  case h_11 => exact BlockOutcome.noConfusion h
  all_goals
    rename_i code
    simp only [Request.specResult, code, Option.some.injEq]
  case h_1 =>
    obtain ⟨upTo64, rfl⟩ := (shiftOutcome_eq_ok_iff _ _ _ _).1 h
    exact (shl64_eq_ofNat_of_le r.a upTo64).symm
  case h_2 =>
    obtain ⟨upTo64, rfl⟩ := (shiftOutcome_eq_ok_iff _ _ _ _).1 h
    exact (shr64_eq_ofNat_of_le r.a upTo64).symm
  case h_3 =>
    obtain ⟨upTo64, rfl⟩ := (shiftOutcome_eq_ok_iff _ _ _ _).1 h
    exact (shl64_eq_ofInt_of_le r.a upTo64).symm
  case h_4 =>
    obtain ⟨upTo64, rfl⟩ := (shiftOutcome_eq_ok_iff _ _ _ _).1 h
    exact (sar64_eq_ite r.a upTo64).symm
  case h_5 =>
    obtain ⟨-, rfl⟩ := (fitOutcome_eq_ok_iff _ _ _).1 h
    exact (boolWord_eq_ite (fitsu_iff _ _)).symm
  case h_6 =>
    obtain ⟨-, rfl⟩ := (fitOutcome_eq_ok_iff _ _ _).1 h
    exact (boolWord_fitss r.a r.width.toNat).symm
  case h_7 =>
    obtain ⟨⟨-, valid⟩, rfl⟩ := (extractOutcome_eq_ok_iff _ _ _ _ _).1 h
    exact (getUnsigned_eq_ofNat_fieldNumber valid).symm
  case h_8 =>
    obtain ⟨⟨upTo64, valid⟩, rfl⟩ := (extractOutcome_eq_ok_iff _ _ _ _ _).1 h
    exact (getSigned_eq_ofInt_fieldInteger upTo64 valid).symm
  case h_9 =>
    obtain ⟨⟨-, valid⟩, fits, rfl⟩ := (insertOutcome_eq_ok_iff _ _ _ _ _ _ _).1 h
    exact (newUnsigned_eq_ofNat_replacedField valid fits).symm
  case h_10 =>
    obtain ⟨⟨-, valid⟩, -, rfl⟩ := (insertOutcome_eq_ok_iff _ _ _ _ _ _ _).1 h
    exact (eq_ofNat_replacedField valid (newSigned_fieldReplaced valid)).symm

/-- Settles O38: the status is the table's, and a completed request has one result, that of the formula. -/
theorem mechanismsGiveValueFormulas : Obligations.MechanismsGiveValueFormulas := by
  intro r
  refine ⟨eval_status r, fun v => ⟨fun ok => ⟨?status, specResult_of_eval_eq_ok ok⟩, fun ⟨ok, result⟩ => ?result⟩⟩
  case status => rw [← eval_status, ok, BlockOutcome.status]
  case result =>
    rw [← eval_status] at ok
    cases outcome : eval r with
    | ok w => rw [Option.some.inj ((specResult_of_eval_eq_ok outcome).symm.trans result)]
    | overflow | contract | illegal => rw [outcome] at ok; cases ok

end Sys2Proof.Machine
